-- ==== Sys2Proof/Word.lean ====
section
/-! DEFINITION. The widths the block takes (00_scope R8). -/

namespace Sys2Proof

/-- A payload byte, a register address, an operand byte (R8). -/
abbrev Byte := BitVec 8

/-- A command word (R70), an axis sample or a calibration offset (R8). -/
abbrev Word := BitVec 16

/-- A status code, 4 bits (R8, R200). -/
abbrev Code := BitVec 4

/-- A 7-bit bus address (R7). -/
abbrev BusAddr := BitVec 7

end Sys2Proof
end

