-- ==== Sys2Proof/Syntax.lean ====
section
/-! DEFINITION. The host command set (00_scope R2, 30_encoding R71–R75), the names of the configuration byte's fields
(41_mode_codec R120) and one line of the spec's assembly (30_encoding R77, R78). -/

namespace Sys2Proof

/-- The seven commands, one constructor per row of spec/opcode_table.json (R2, R74). A command's only operand is its
operand byte (R21, R72), so no value of this type is ill-formed. -/
inductive Instr where
  /-- SETMODE mask (R122). -/
  | setmode (mask : Byte)
  /-- GETMODE (R124). -/
  | getmode
  /-- GETSENS (R125). -/
  | getsens
  /-- ORIENT (R142). -/
  | orient
  /-- INIT cfg (R160). -/
  | init (cfg : Byte)
  /-- SETINT mask (R180). -/
  | setint (mask : Byte)
  /-- CLRLATCH (R181). -/
  | clrlatch
  deriving DecidableEq, Repr

/-- What a command word decodes to (R73): one of the seven commands, or ILLEGAL, which is executed too (R205). -/
inductive Command where
  | instr (i : Instr)
  | illegal
  deriving DecidableEq, Repr

/-- The measurement modes (R120). -/
inductive Mode where
  | standby | measurement | levelDetection | pulseDetection
  deriving DecidableEq, Repr

/-- The named sensitivities (R120). -/
inductive Sensitivity where
  | g8 | g2 | g4
  deriving DecidableEq, Repr

/-- The assembler's mnemonics (R77). -/
inductive Mnemonic where
  | setmode | getmode | getsens | orient | init | setint | clrlatch
  deriving DecidableEq, Repr

/-- One line of assembly after its operands' numbers and symbols have been read (R77, R78): an operand is an integer as
the line writes it, so it may be out of range. -/
structure Line where
  mnemonic : Mnemonic
  operands : List Nat
  deriving DecidableEq, Repr

end Sys2Proof
end

