-- ==== Sys2Proof/WellFormed.lean ====
section
/-! DEFINITION. Which command words are legal (30_encoding R74, R75) and which assembly lines stand for a command
(30_encoding R77, R78). Every `Instr` is well-formed by its type: its operand is a byte. -/

namespace Sys2Proof

/-- A row of the opcode map (R74): a word `w` selects it when `w & mask = pattern`. -/
structure OpcodeRow where
  mnemonic : Mnemonic
  pattern  : Word
  mask     : Word
  deriving DecidableEq, Repr

/-- The opcode map (R74). -/
def opcodeMap : List OpcodeRow :=
  [⟨.setmode, 0x0100, 0xFF00⟩, ⟨.getmode, 0x0200, 0xFFFF⟩, ⟨.getsens, 0x0300, 0xFFFF⟩, ⟨.orient, 0x0400, 0xFFFF⟩,
   ⟨.init, 0x0500, 0xFF00⟩, ⟨.setint, 0x0600, 0xFF00⟩, ⟨.clrlatch, 0x0700, 0xFFFF⟩]

/-- A word selects a row (R74). -/
def OpcodeRow.selects (r : OpcodeRow) (w : Word) : Bool := w &&& r.mask == r.pattern

/-- The first class of R75: the reserved bits 15:12 are 0. -/
def reservedClear (w : Word) : Bool := w >>> 12 == 0

/-- The second class of R75: the opcode bits 11:8 name a command, 1 to 7. -/
def opcodeNamed (w : Word) : Bool :=
  let op := w.extractLsb' 8 4
  1 ≤ op.toNat && op.toNat ≤ 7

/-- The third class of R75: GETMODE, GETSENS, ORIENT and CLRLATCH have an operand byte of 0. -/
def operandAllowed (w : Word) : Bool :=
  !([0x2, 0x3, 0x4, 0x7].contains (w.extractLsb' 8 4).toNat) || w.extractLsb' 0 8 == 0

/-- A legal command word: none of the three classes of R75 holds it. -/
def legalWord (w : Word) : Bool := reservedClear w && opcodeNamed w && operandAllowed w

/-- How many operands a mnemonic's line may have: none, one, or one or two for the two commands that have the
pseudo-instruction `m, s` (R77, R78). -/
def Mnemonic.arities : Mnemonic → List Nat
  | .setmode | .init => [1, 2]
  | .setint => [1]
  | .getmode | .getsens | .orient | .clrlatch => [0]

/-- The line has as many operands as its mnemonic takes (R77, R78). -/
def Line.arityOk (l : Line) : Bool := l.mnemonic.arities.contains l.operands.length

/-- Every operand of the line is an integer 0..255 (R77). -/
def Line.rangeOk (l : Line) : Bool := l.operands.all (· < 256)

/-- A line that stands for a command. -/
def Line.wf (l : Line) : Bool := l.arityOk && l.rangeOk

end Sys2Proof
end

