-- ==== Sys2Proof/Decode.lean ====
section
/-! DEFINITION. Decoding a command word (30_encoding R73), and the encoder beside it (R74, R77). Decoding depends on the
word alone (R76). -/

namespace Sys2Proof

/-- Why a command word is illegal: the three classes of R75. -/
inductive Illegal where
  /-- Bits 15:12 are not 0. -/
  | reservedBits
  /-- The opcode is 0x0 or 0x8 to 0xF. -/
  | noOpcode
  /-- A command without an operand has a non-zero operand byte. -/
  | operandNotZero
  deriving DecidableEq, Repr

/-- The field RSV, bits 15:12 (R71). -/
def rsvField (w : Word) : BitVec 4 := w.extractLsb' 12 4

/-- The field OP, bits 11:8 (R71). -/
def opField (w : Word) : BitVec 4 := w.extractLsb' 8 4

/-- The field IMM, bits 7:0, used exactly as written (R71, R72). -/
def immField (w : Word) : Byte := w.extractLsb' 0 8

/-- A command with no operand: its operand byte must be 0x00 (R73). -/
def noOperand (imm : Byte) (i : Instr) : Except Illegal Instr :=
  if imm = 0 then .ok i else .error .operandNotZero

/-- The command a word stands for, or why it stands for none (R73, R75). -/
def decodeWord (w : Word) : Except Illegal Instr :=
  if rsvField w ≠ 0 then .error .reservedBits
  else
    let imm := immField w
    match (opField w).toNat with
    | 1 => .ok (.setmode imm)
    | 2 => noOperand imm .getmode
    | 3 => noOperand imm .getsens
    | 4 => noOperand imm .orient
    | 5 => .ok (.init imm)
    | 6 => .ok (.setint imm)
    | 7 => noOperand imm .clrlatch
    | _ => .error .noOpcode

/-- `decode(w)`, total (R73): every word that stands for no command is ILLEGAL. -/
def decode (w : Word) : Command :=
  match decodeWord w with
  | .ok i => .instr i
  | .error _ => .illegal

/-- The opcode of a command (R74). -/
def Instr.opcode : Instr → Byte
  | .setmode _ => 1
  | .getmode => 2
  | .getsens => 3
  | .orient => 4
  | .init _ => 5
  | .setint _ => 6
  | .clrlatch => 7

/-- The operand byte of a command, 0 where it has none (R71, R77). -/
def Instr.operand : Instr → Byte
  | .setmode m | .init m | .setint m => m
  | .getmode | .getsens | .orient | .clrlatch => 0

/-- The command word of a command, `(OP << 8) | imm` (R77). -/
def encode (i : Instr) : Word := i.opcode ++ i.operand

/-- The command the decoder reads from `nbits` bits numbered as spec/opcode_table.json numbers them: one 16-bit word, the
bits above `nbits` being 0; a longer word is no command word, since no other length exists (R70). -/
def decodeTableWord (nbits w : Nat) : Option Instr :=
  if 16 < nbits then none
  else
    match decodeWord (BitVec.ofNat 16 (w % 2 ^ nbits)) with
    | .ok i => some i
    | .error _ => none

end Sys2Proof
end

