-- ==== Sys2Proof/Config.lean ====
section
/-! DEFINITION. What an implementation fixes (00_scope R7), what the agents outside the block do (00_scope R4), and the free
values the spec leaves open: opaque constants with no body, so that no proof can lean on one of them. -/

namespace Sys2Proof

/-- The implementation parameters (R7). A model takes them as arguments, so they are data of the machine and every
statement about all states holds for all their values. -/
structure Params where
  /-- `DEV_ADDR`, the accelerometer's bus address (OPEN, D21). -/
  devAddr : BusAddr
  /-- `REG_OUT_BASE`, the X-axis low-byte output register (OPEN, D21). -/
  regOutBase : Byte
  /-- `REG_OFF_BASE`, the X-axis low-byte offset register (OPEN, D21). -/
  regOffBase : Byte
  /-- `REG_MCTL`, the mode-control register (OPEN, D21). -/
  regMctl : Byte
  /-- `REG_INTSRC`, the interrupt-source-select register (OPEN, D21). -/
  regIntsrc : Byte
  /-- `REG_LATCH`, the latch-reset register (OPEN, D21). -/
  regLatch : Byte
  /-- `LATCH_CLEAR_VALUE`, "clear both latches" (OPEN, D22). -/
  latchClearValue : Byte
  /-- `LATCH_ENABLE_VALUE`, "enable registers" (OPEN, D22). -/
  latchEnableValue : Byte
  /-- `INIT_CONFIG`, the construction configuration byte (D38). -/
  initConfig : Byte
  /-- `CAL_ITERATIONS` (D30). -/
  calIterations : Nat
  /-- `CAL_DELAY_MS` (D30). -/
  calDelayMs : Nat
  /-- `READ_CHECKS_ADDR_CLOSE` (D9). -/
  readChecksAddrClose : Bool
  deriving DecidableEq, Repr

/-- What the Host does next (R34, R42). The Host performs its acts in the order of its script. DESIGN CHOICE (log 3, 9). -/
inductive HostAct where
  /-- `issue(w)`, which waits until READY is true (R42). -/
  | issue (w : Word)
  /-- `reset()`, which takes the place of the machine's step after `after` further steps, READY or not (R34, R240). -/
  | reset (after : Nat)
  deriving DecidableEq, Repr

/-- What the Transport makes of the next primitive issued to it (R36, R38, R39). DESIGN CHOICE (log 3). -/
inductive BusReply where
  /-- It answers. The raw byte is the draw: a count, a granted count or a byte is `v` itself, a transfer status its low
  three bits, an acknowledge none of it. -/
  | answers (v : Byte)
  /-- It never answers (R39, D25). -/
  | never
  deriving DecidableEq, Repr

/-- What the Delay timer makes of the next WAIT (R37). DESIGN CHOICE (log 3). -/
inductive TimerReply where
  | elapsed
  | never
  deriving DecidableEq, Repr

/-- OPEN (R7, D21; log 5). -/
opaque Config.devAddr : BusAddr
/-- OPEN (R7, D21; log 5). -/
opaque Config.regOutBase : Byte
/-- OPEN (R7, D21; log 5). -/
opaque Config.regOffBase : Byte
/-- OPEN (R7, D21; log 5). -/
opaque Config.regMctl : Byte
/-- OPEN (R7, D21; log 5). -/
opaque Config.regIntsrc : Byte
/-- OPEN (R7, D21; log 5). -/
opaque Config.regLatch : Byte
/-- OPEN (R7, D22; log 5). -/
opaque Config.latchClearValue : Byte
/-- OPEN (R7, D22; log 5). -/
opaque Config.latchEnableValue : Byte

/-- The parameters of the block: the OPEN ones free, the others at the values R7 gives. -/
def Config.params : Params where
  devAddr := Config.devAddr
  regOutBase := Config.regOutBase
  regOffBase := Config.regOffBase
  regMctl := Config.regMctl
  regIntsrc := Config.regIntsrc
  regLatch := Config.regLatch
  latchClearValue := Config.latchClearValue
  latchEnableValue := Config.latchEnableValue
  initConfig := 0x00
  calIterations := 3
  calDelayMs := 200
  readChecksAddrClose := false

/-- The draw for MODE_CACHE at the `n`-th reset, one of 0..3 (R44, D13; log 6). -/
opaque Config.resetMode : Nat → BitVec 2
/-- The draw for the field SENS_CACHE[3:2] at the `n`-th reset (R44, D13; log 6). -/
opaque Config.resetSens : Nat → BitVec 2
/-- The draw for CAL_X at the `n`-th reset (R44, D16; log 6). -/
opaque Config.resetCalX : Nat → Word
/-- The draw for CAL_Y at the `n`-th reset (R44, D16; log 6). -/
opaque Config.resetCalY : Nat → Word
/-- The draw for CAL_Z at the `n`-th reset (R44, D16; log 6). -/
opaque Config.resetCalZ : Nat → Word
/-- The draw for CAL_T at the `n`-th reset (R44, D19; log 6). -/
opaque Config.resetCalT : Nat → Byte
/-- The draw for CAL_I at the `n`-th reset, before it is reduced into 0..CAL_ITERATIONS (R44, D19; log 6). -/
opaque Config.resetCalI : Nat → Nat
/-- The draw for BUF[0..5] at the `n`-th reset (R44, D35; log 6). -/
opaque Config.resetBuf : Nat → Vector Byte 6

/-- What the Host does after power-up (log 4). -/
opaque Config.hostScript : List HostAct
/-- What the Transport answers after power-up (log 4). -/
opaque Config.transportScript : List BusReply
/-- What the Delay timer answers after power-up (log 4). -/
opaque Config.timerScript : List TimerReply

end Sys2Proof
end

