-- ==== Sys2Proof/Machine/State.lean ====
section
/-! DEFINITION. The machine's state (10_state R20–R31, R41, R44) as plain data, the sequencer's positions (R22), the
primitives and their answers (R36, R37), and how a step can stop. -/

namespace Sys2Proof.Machine

/-- How a write phase is closed (R36). -/
inductive Close where
  /-- Release the bus. -/
  | stop
  /-- Keep the bus (repeated start). -/
  | hold
  deriving DecidableEq, Repr

/-- The primitives the Controller issues: those of the Transport (R36) and the Delay timer's (R37). -/
inductive Prim where
  /-- `BEGIN(a)`. -/
  | begin (a : BusAddr)
  /-- `XWRITE(bs)`. -/
  | xwrite (bs : List Byte)
  /-- `END(m)`. -/
  | close (m : Close)
  /-- `REQUEST(a, n)`. -/
  | request (a : BusAddr) (n : Byte)
  /-- `AVAILABLE()`. -/
  | available
  /-- `READ()`. -/
  | read
  /-- `WAIT(ms)`. -/
  | wait (ms : Nat)
  deriving DecidableEq, Repr

/-- An answer, in the domain its primitive has (R36, R37). -/
inductive Answer where
  | ack
  | count (c : Byte)
  | status (s : BitVec 3)
  | byte (b : Byte)
  deriving DecidableEq, Repr

/-- An entry of the event trace (R41). A primitive whose answer has not come holds `none`. -/
inductive Event where
  | issue (w : Word)
  | prim (q : Prim) (a : Option Answer)
  | finish (code : Code)
  deriving DecidableEq, Repr

/-- The labels of `MemWrite` (R102). -/
inductive WPos where
  | w1 | w2 | w3 | w4
  deriving DecidableEq, Repr

/-- The labels of `MemRead` with N = 6 (R103); at R5 and R6 the drain index `i` stands with the label, below 6. -/
inductive RPos where
  | r1 | r2 | r3 | r4
  | r5 (i : Fin 6)
  | r6 (i : Fin 6)
  deriving DecidableEq, Repr

/-- The three calibration offsets OX, OY, OZ (R164). -/
structure Offsets where
  x : Word
  y : Word
  z : Word
  deriving DecidableEq, Repr

/-- The labels of the commands' pseudocode (R22). A local of the pseudocode that R20 gives no register (a status, the drain
index, the offsets) stands with the label, and SEQ stays finite. DEDUCED (log 2). -/
inductive Label where
  /-- The one label of GETMODE, GETSENS and ILLEGAL (R124, R125, R205). -/
  | start
  /-- The `MemWrite` of SETMODE and of SETINT (R122, R180). -/
  | write (w : WPos)
  /-- The `MemRead` of ORIENT (R142). -/
  | read (r : RPos)
  /-- L1 of CLRLATCH (R181). -/
  | clear (w : WPos)
  /-- L2 of CLRLATCH (R181). -/
  | enable (w : WPos)
  /-- The `MemWrite` of INIT's `SetModeProc` (R160). -/
  | mode (w : WPos)
  /-- The end of INIT's `SetModeProc`, which returned `s` (R121). -/
  | modeRet (s : Code)
  /-- INIT's `CAL_T` (R161). -/
  | target (s : Code)
  /-- The head of INIT's loop (R162). -/
  | loop (s : Code)
  /-- The `MemRead` of C1 (R163). -/
  | c1 (s : Code) (r : RPos)
  /-- The end of C1, whose `OrientProc` returned `r` (R163). -/
  | c1Ret (s : Code) (r : Code)
  /-- C2 (R164). -/
  | c2 (s : Code)
  /-- The `MemWrite` of C3 (R165). -/
  | c3 (s : Code) (o : Offsets) (w : WPos)
  /-- C4 (R166). -/
  | c4 (s : Code)
  /-- `finish(s)` of a command that touches the bus (R43). -/
  | finish (s : Code)
  deriving DecidableEq, Repr

/-- The sequencer position (R22). -/
inductive Seq where
  /-- No command is running. -/
  | idle
  /-- Command `c` is at label `p`. -/
  | run (c : Command) (p : Label)
  /-- Command `c` is at label `p`, has issued `q`, and holds until `q`'s agent answers. -/
  | wait (c : Command) (p : Label) (q : Prim)
  deriving DecidableEq, Repr

/-- The machine. The first eleven groups are the registers of R20; `trace` is the observation of R41; the last five fields
are the model's own: the parameters of R7, the agents outside the block, and the index of the reset draws. -/
structure State where
  /-- SEQ (R22). -/
  seq : Seq
  /-- MODE_CACHE (R24). -/
  modeCache : BitVec 2
  /-- SENS_CACHE (R25). -/
  sensCache : Byte
  /-- STATUS (R26). -/
  status : Code
  /-- RES_BYTE (R27). -/
  resByte : Byte
  /-- RES_X (R28). -/
  resX : Word
  /-- RES_Y (R28). -/
  resY : Word
  /-- RES_Z (R28). -/
  resZ : Word
  /-- CAL_X (R29). -/
  calX : Word
  /-- CAL_Y (R29). -/
  calY : Word
  /-- CAL_Z (R29). -/
  calZ : Word
  /-- CAL_T (R30). -/
  calT : Byte
  /-- CAL_I (R30). -/
  calI : Nat
  /-- BUF[0..5] (R31). -/
  buf : Vector Byte 6
  /-- The events recorded so far, in issue order (R41), less a primitive that is still outstanding. -/
  trace : List Event
  /-- The implementation parameters (R7; log 5). -/
  params : Params
  /-- What the Host will do (log 3). -/
  host : List HostAct
  /-- What the Transport will answer to the outstanding and the later primitives, in issue order (log 3). -/
  transport : List BusReply
  /-- What the Delay timer will answer to the outstanding and the later WAITs (log 3). -/
  timer : List TimerReply
  /-- How many `reset()` events have struck since power-up (log 6). -/
  resets : Nat
  deriving DecidableEq, Repr

/-- How the machine can stop. The block itself has no traps and no faults (R204). -/
inductive Fault where
  /-- Raised by a command's meaning when SEQ does not hold that command at one of its labels, or holds it in Wait for a
  primitive the label does not issue: no state of the block, since R22 gives each command its own labels. Safe: the machine
  stops where the hardware has no state at all, and no run reaches it (log 10). DEDUCED. -/
  | offSequence
  deriving DecidableEq, Repr

/-- Why an instruction has no meaning. -/
inductive Refusal where
  /-- Raised only by an arm of `exec` whose instruction has no meaning yet; none is left. Safe. -/
  | notModelled (mnemonic : String)
  deriving DecidableEq, Repr

/-- The state right after reset (R44, R240): SEQ at the start of INIT(INIT_CONFIG), the result registers zero, the registers
R44 calls unspecified at the draws of log 6, nothing recorded, and the agents at their scripts of log 4. -/
def State.reset : State where
  seq := .run (.instr (.init Config.params.initConfig)) (.mode .w1)
  modeCache := Config.resetMode 0
  sensCache := (Config.resetSens 0).setWidth 8 <<< 2
  status := 0x0
  resByte := 0x00
  resX := 0x0000
  resY := 0x0000
  resZ := 0x0000
  calX := Config.resetCalX 0
  calY := Config.resetCalY 0
  calZ := Config.resetCalZ 0
  calT := Config.resetCalT 0
  calI := Config.resetCalI 0 % (Config.params.calIterations + 1)
  buf := Config.resetBuf 0
  trace := []
  params := Config.params
  host := Config.hostScript
  transport := Config.transportScript
  timer := Config.timerScript
  resets := 0

end Sys2Proof.Machine
end

