-- ==== Sys2Proof/Machine/Flags.lean ====
section
/-! DEFINITION. The status codes, the block's only condition code (10_state R26, 60_exceptions R200), and how an answer
becomes one (40_transport R102–R107). -/

namespace Sys2Proof.Machine

/-- 0x0 Success (R200). -/
abbrev success : Code := 0x0
/-- 0x1 OversizedPayload (R200). -/
abbrev oversizedPayload : Code := 0x1
/-- 0x2 AddressNack (R200). -/
abbrev addressNack : Code := 0x2
/-- 0x3 DataNack (R200). -/
abbrev dataNack : Code := 0x3
/-- 0x4 UnspecifiedFault (R200). -/
abbrev unspecifiedFault : Code := 0x4
/-- 0x5 NoData (R200). -/
abbrev noData : Code := 0x5
/-- 0x6 WriteRejected (R200). -/
abbrev writeRejected : Code := 0x6
/-- 0x7 LengthMismatch (R200). -/
abbrev lengthMismatch : Code := 0x7
/-- 0xF IllegalCommand, the spec's own code (R200). -/
abbrev illegalCommand : Code := 0xF

/-- The 3-bit transfer status in a reply's raw byte (R36; log 3). -/
def statusOf (v : Byte) : BitVec 3 := v.setWidth 3

/-- A transfer status as a status code, verbatim (R106). -/
def codeOfStatus (s : BitVec 3) : Code := s.setWidth 4

/-- An `XWRITE` of `n` bytes is accepted when the count equals `n` exactly (R102, R104). -/
def countAccepted (c : Byte) (n : Nat) : Bool := c.toNat == n

/-- The codes 0x8 to 0xE are never written (R200). -/
def codeLegal (c : Code) : Bool := c.toNat < 8 || c == illegalCommand

end Sys2Proof.Machine
end

