-- ==== Sys2Proof/Machine/Operands.lean ====
section
/-! DEFINITION. Values: the notation of 00_scope R9, the fields of the configuration byte (41_mode_codec R120, R123, R126),
the reconstruction of an axis value (42_orientation R140) and the calibration offsets (43_calibration R164, 20_memory R51). -/

namespace Sys2Proof.Machine

/-- `lo(v) = v[7:0]` (R9). -/
def lo (v : Word) : Byte := v.extractLsb' 0 8

/-- `hi(v) = v[15:8]` (R9). -/
def hi (v : Word) : Byte := v.extractLsb' 8 8

/-- `signed16(v)`, the two's-complement value of `v` (R9). -/
def signed16 (v : Word) : Int := if v.getLsbD 15 then (v.toNat : Int) - 65536 else v.toNat

/-- `mod16(i)`, an integer reduced modulo 2^16 (R9). -/
def mod16 (i : Int) : Word := BitVec.ofInt 16 i

/-- The mode field of a configuration byte, `mask & 0x03`, in the 2 bits of MODE_CACHE (R24, R120). -/
def modeField (mask : Byte) : BitVec 2 := mask.extractLsb' 0 2

/-- The sensitivity field of a configuration byte as it sits there, `mask & 0x0C` (R25, R120). -/
def sensField (mask : Byte) : Byte := mask &&& 0x0C

/-- The code of a mode (R120, D11). -/
def modeCode : Mode → BitVec 2
  | .standby => 0b00
  | .measurement => 0b01
  | .levelDetection => 0b10
  | .pulseDetection => 0b11

/-- The code of a sensitivity in its masked form (R120, D12). -/
def sensCode : Sensitivity → Byte
  | .g8 => 0x00
  | .g2 => 0x04
  | .g4 => 0x08

/-- The codec's `encode(mode, sens) = mode | sens` (R123). -/
def encodeConfig (mode : BitVec 2) (sens : Byte) : Byte := mode.setWidth 8 ||| sens

/-- The codec's `decode(byte)` (R123). -/
def decodeConfig (b : Byte) : BitVec 2 × Byte := (modeField b, sensField b)

/-- `decodeScale(sens)`, total (R126, C2). -/
def decodeScale (sens : Byte) : Byte :=
  if sens = 0x00 then 0x10
  else if sens = 0x04 then 0x40
  else if sens = 0x08 then 0x20
  else 0x01

/-- `recon(L, H)`: the 10-bit field sign-extended from bit 1 of the high byte, bits 7:2 kept when that bit is clear (R140,
D14). -/
def recon (l h : Byte) : Word :=
  let h' := if h.getLsbD 1 then h ||| 0xFC else h
  h' ++ l

/-- The three axis values of a six-byte burst, low byte first, X, Y, Z (R50, R141). -/
def axes (b : Vector Byte 6) : Word × Word × Word := (recon b[0] b[1], recon b[2] b[3], recon b[4] b[5])

/-- `mod16(-2 * signed16(v))`, the X and Y offsets (R164). -/
def offset (v : Word) : Word := mod16 (-2 * signed16 v)

/-- `mod16(-2 * (signed16(v) - t))`, the Z offset for the target `t`, read as a positive integer (R161, R164). -/
def offsetZ (v : Word) (t : Byte) : Word := mod16 (-2 * (signed16 v - (t.toNat : Int)))

/-- The offset burst, low byte first, X, Y, Z (R51, R165). -/
def Offsets.burst (o : Offsets) : List Byte := [lo o.x, hi o.x, lo o.y, hi o.y, lo o.z, hi o.z]

end Sys2Proof.Machine
end

