-- ==== Sys2Proof/Machine/Ops.lean ====
section
/-! DEFINITION. The named operations every command is written with: what the host sees (10_state R23, R34, R40), the trace
(R41), accepting a command (R42), holding for an answer (R39), completing one (R43) and `reset()` (70_reset R240). -/

namespace Sys2Proof.Machine

/-- READY (R23). -/
def State.ready (s : State) : Bool := s.seq == .idle

/-- The registers the host reads (R34). -/
inductive HostReg where
  | ready | status | resByte | resX | resY | resZ
  deriving DecidableEq, Repr

/-- What a host read returns, at any time, with no side effect (R34): the register's bits, in a word. -/
def State.hostRead (s : State) : HostReg → Word
  | .ready => if s.ready then 1 else 0
  | .status => s.status.setWidth 16
  | .resByte => s.resByte.setWidth 16
  | .resX => s.resX
  | .resY => s.resY
  | .resZ => s.resZ

/-- The command SEQ holds, if any (R22). -/
def Seq.command : Seq → Option Command
  | .idle => none
  | .run c _ | .wait c _ _ => some c

/-- The primitive that is issued and not yet answered (R39). -/
def Seq.outstanding : Seq → Option Prim
  | .wait _ _ q => some q
  | .idle | .run _ _ => none

/-- The event trace (R41): one entry per issued primitive in issue order, the outstanding one with no answer yet (log 8). -/
def State.events (s : State) : List Event :=
  s.trace ++ match s.seq.outstanding with
    | some q => [.prim q none]
    | none => []

/-- The agent that answers a primitive is the Delay timer (R37); the Transport answers every other one (R36). -/
def Prim.toTimer : Prim → Bool
  | .wait _ => true
  | _ => false

/-- The answer a raw reply is, in the domain of its primitive (R36, R37; log 3). -/
def Prim.answer : Prim → Byte → Answer
  | .begin _, _ => .ack
  | .xwrite _, v => .count v
  | .close _, v => .status (statusOf v)
  | .request _ _, v => .count v
  | .available, v => .count v
  | .read, v => .byte v
  | .wait _, _ => .ack

/-- The next reply of the agent that answers `q`, and the state that has taken it; none while that agent does not answer
(R38, R39). The acknowledge of a WAIT carries no value. -/
def State.takeReply (s : State) (q : Prim) : Option (Byte × State) :=
  if q.toTimer then
    match s.timer with
    | .elapsed :: rest => some (0, { s with timer := rest })
    | _ => none
  else
    match s.transport with
    | .answers v :: rest => some (v, { s with transport := rest })
    | _ => none

/-- What a command does at a label: issue a primitive and go on from its raw reply, compute in one internal step, or
complete with a status (R5, R10). -/
inductive Act where
  | prim (q : Prim) (k : Byte → State → State × Label)
  | compute (f : State → State × Label)
  | finish (f : State → State) (code : Code)

/-- The label a command starts at (R42). -/
def startLabel : Command → Label
  | .instr (.setmode _) | .instr (.setint _) => .write .w1
  | .instr .getmode | .instr .getsens | .illegal => .start
  | .instr .orient => .read .r1
  | .instr (.init _) => .mode .w1
  | .instr .clrlatch => .clear .w1

/-- The Host's `issue(w)` in the state that has taken the act from the Host's script: SEQ <- Run(decode(w), start), so READY
falls in the same step (R42), and the event is recorded (R41). -/
def State.accept (s : State) (w : Word) : State :=
  { s with seq := .run (decode w) (startLabel (decode w)), trace := s.trace ++ [.issue w] }

/-- `finish(code)` in the state that has the command's result-register writes: STATUS <- code and SEQ <- Idle, in one step
(R43), and the event is recorded (R41). -/
def State.complete (s : State) (code : Code) : State :=
  { s with seq := .idle, status := code, trace := s.trace ++ [.finish code] }

/-- The Controller's step at a label: a primitive is issued and SEQ holds for its answer (R39), an internal step goes to the
next label, a completion finishes the command (R43). -/
def State.perform (s : State) (c : Command) (p : Label) : Act → State
  | .prim q _ => { s with seq := .wait c p q }
  | .compute f => let r := f s; { r.1 with seq := .run c r.2 }
  | .finish f code => (f s).complete code

/-- The step of a command that holds for the answer to `q` (R39): nothing changes while the answer does not come (log 12);
when it comes, it is recorded (R41) and the command goes on. -/
def State.resume (s : State) (c : Command) (q : Prim) (k : Byte → State → State × Label) : State :=
  match s.takeReply q with
  | none => s
  | some (v, s') =>
    let r := k v s'
    { r.1 with seq := .run c r.2, trace := s.trace ++ [.prim q (some (q.answer v))] }

/-- One step of the command `c`, whose labels' acts are `prog`, from where SEQ holds it. DEDUCED: a state in which SEQ does
not hold `c` at one of its labels is no state of the block (log 10). -/
def drive (c : Command) (prog : Label → Option Act) (s : State) : Host.Outcome State Fault Refusal :=
  match s.seq with
  | .idle => .fault .offSequence
  | .run d p =>
    if d = c then
      match prog p with
      | some a => .next (s.perform c p a)
      | none => .fault .offSequence
    else .fault .offSequence
  | .wait d p q =>
    if d = c then
      match prog p with
      | some (.prim q' k) => if q' = q then .next (s.resume c q k) else .fault .offSequence
      | _ => .fault .offSequence
    else .fault .offSequence

/-- The Transport's script without the reply of an abandoned primitive of its own (R240; log 7). -/
def State.transportAfterReset (s : State) : List BusReply :=
  match s.seq.outstanding with
  | some q => if q.toTimer then s.transport else s.transport.tail
  | none => s.transport

/-- The Delay timer's script without the acknowledge of an abandoned WAIT (R240; log 7). -/
def State.timerAfterReset (s : State) : List TimerReply :=
  match s.seq.outstanding with
  | some q => if q.toTimer then s.timer.tail else s.timer
  | none => s.timer

/-- `reset()` (R240): the running command is abandoned and the pending answer discarded, every register takes its value of
R44, SEQ is at the start of INIT(INIT_CONFIG), no issue is recorded. What R44 leaves unspecified is a fresh draw (log 6). -/
def State.doReset (s : State) : State :=
  let n := s.resets + 1
  { s with
    seq := .run (.instr (.init s.params.initConfig)) (.mode .w1)
    modeCache := Config.resetMode n
    sensCache := (Config.resetSens n).setWidth 8 <<< 2
    status := success
    resByte := 0x00
    resX := 0x0000
    resY := 0x0000
    resZ := 0x0000
    calX := Config.resetCalX n
    calY := Config.resetCalY n
    calZ := Config.resetCalZ n
    calT := Config.resetCalT n
    calI := Config.resetCalI n % (s.params.calIterations + 1)
    buf := Config.resetBuf n
    trace := s.events
    transport := s.transportAfterReset
    timer := s.timerAfterReset
    resets := n }

end Sys2Proof.Machine
end

