-- ==== Sys2Proof/Machine/Transport.lean ====
section
/-! DEFINITION. The register transport (40_transport R100–R111): the two procedures every command that touches the bus
runs. Each is a table from its labels to acts; `here` places its labels in the caller's, `ret` is the caller's label once
the procedure has returned a status. -/

namespace Sys2Proof.Machine

/-- `MemWrite(reg, N, bs)` (R102), with N the number of bytes of `bs`. A failed check returns at once (R105); the close
status is returned verbatim (R106). -/
def memWrite (P : Params) (reg : Byte) (bs : List Byte) (here : WPos → Label) (ret : Code → Label) : WPos → Act
  | .w1 => .prim (.begin P.devAddr) fun _ s => (s, here .w2)
  | .w2 => .prim (.xwrite [reg]) fun c s => (s, if countAccepted c 1 then here .w3 else ret writeRejected)
  | .w3 => .prim (.xwrite bs) fun c s => (s, if countAccepted c bs.length then here .w4 else ret writeRejected)
  | .w4 => .prim (.close .stop) fun v s => (s, ret (codeOfStatus (statusOf v)))

/-- The label after byte `i` of the drain: the loop tests `i < N` before it asks AVAILABLE (R103, D10), and a full drain
returns Success. -/
def afterByte (i : Fin 6) (here : RPos → Label) (ret : Code → Label) : Label :=
  if h : i.val + 1 < 6 then here (.r5 ⟨i.val + 1, h⟩) else ret success

/-- `MemRead(reg, 6)` (R103), the six bytes left in BUF. The status of END(HOLD) counts only under
`READ_CHECKS_ADDR_CLOSE` (R107); any AVAILABLE answer but 0 counts as available (R104). -/
def memRead (P : Params) (reg : Byte) (here : RPos → Label) (ret : Code → Label) : RPos → Act
  | .r1 => .prim (.begin P.devAddr) fun _ s => (s, here .r2)
  | .r2 => .prim (.xwrite [reg]) fun c s => (s, if countAccepted c 1 then here .r3 else ret writeRejected)
  | .r3 => .prim (.close .hold) fun v s =>
      (s, if P.readChecksAddrClose && codeOfStatus (statusOf v) != success then ret (codeOfStatus (statusOf v))
          else here .r4)
  | .r4 => .prim (.request P.devAddr 6) fun g s => (s, if countAccepted g 6 then here (.r5 0) else ret lengthMismatch)
  | .r5 i => .prim .available fun a s => (s, if a = 0 then ret lengthMismatch else here (.r6 i))
  | .r6 i => .prim .read fun b s => ({ s with buf := s.buf.set i b }, afterByte i here ret)

end Sys2Proof.Machine
end

