-- ==== Sys2Proof/Machine/Mode.lean ====
section
/-! DEFINITION. SETMODE, GETMODE and GETSENS (41_mode_codec R121–R126). -/

namespace Sys2Proof.Machine

/-- The end of `SetModeProc(mask)` with the write's status `s`: the caches are written together, and only on Success
(R121, R127). -/
def State.cacheMode (s : State) (mask : Byte) (code : Code) : State :=
  if code = success then { s with modeCache := modeField mask, sensCache := sensField mask } else s

/-- SETMODE's labels (R122): the caches are written in the finish step (R43). -/
def setmodeProgram (P : Params) (mask : Byte) : Label → Option Act
  | .write w => some (memWrite P P.regMctl [mask] .write .finish w)
  | .finish code => some (.finish (fun s => s.cacheMode mask code) code)
  | _ => none

/-- SETMODE mask (R122). -/
def execSetmode (mask : Byte) (s : State) : Host.Outcome State Fault Refusal :=
  drive (.instr (.setmode mask)) (setmodeProgram s.params mask) s

/-- GETMODE's one label (R124). -/
def getmodeProgram : Label → Option Act
  | .start => some (.finish (fun s => { s with resByte := s.modeCache.setWidth 8 }) success)
  | _ => none

/-- GETMODE (R124). -/
def execGetmode (s : State) : Host.Outcome State Fault Refusal :=
  drive (.instr .getmode) getmodeProgram s

/-- GETSENS's one label (R125). -/
def getsensProgram : Label → Option Act
  | .start => some (.finish (fun s => { s with resByte := decodeScale s.sensCache }) success)
  | _ => none

/-- GETSENS (R125). -/
def execGetsens (s : State) : Host.Outcome State Fault Refusal :=
  drive (.instr .getsens) getsensProgram s

end Sys2Proof.Machine
end

