-- ==== Sys2Proof/Machine/Calibration.lean ====
section
/-! DEFINITION. INIT and the zero-offset calibration loop (43_calibration R160–R170). -/

namespace Sys2Proof.Machine

/-- The end of C1 with the read's status: the three values together on Success, kept otherwise (R163). -/
def State.takeCalibration (s : State) (code : Code) : State :=
  if code = success then
    let t := axes s.buf
    { s with calX := t.1, calY := t.2.1, calZ := t.2.2 }
  else s

/-- The target, computed once from SENS_CACHE (R161), and the loop counter at 0 (R162). -/
def State.startCalibration (s : State) : State := { s with calT := decodeScale s.sensCache, calI := 0 }

/-- The offsets of C2 from the calibration registers (R164). -/
def State.offsets (s : State) : Offsets := ⟨offset s.calX, offset s.calY, offsetZ s.calZ s.calT⟩

/-- INIT's labels (R160). Every label after `SetModeProc` carries that procedure's status, which is what INIT finishes with
(R169); the loop runs whatever that status is (R170), and the statuses of its reads and writes are dropped (R163, R165). -/
def initProgram (P : Params) (cfg : Byte) : Label → Option Act
  | .mode w => some (memWrite P P.regMctl [cfg] .mode .modeRet w)
  | .modeRet st => some (.compute fun s => (s.cacheMode cfg st, .target st))
  | .target st => some (.compute fun s => (s.startCalibration, .loop st))
  | .loop st => some (.compute fun s => (s, if s.calI < P.calIterations then .c1 st .r1 else .finish st))
  | .c1 st r => some (memRead P P.regOutBase (.c1 st) (.c1Ret st) r)
  | .c1Ret st code => some (.compute fun s => (s.takeCalibration code, .c2 st))
  | .c2 st => some (.compute fun s => (s, .c3 st s.offsets .w1))
  | .c3 st o w => some (memWrite P P.regOffBase o.burst (.c3 st o) (fun _ => .c4 st) w)
  | .c4 st => some (.prim (.wait P.calDelayMs) fun _ s => ({ s with calI := s.calI + 1 }, .loop st))
  | .finish st => some (.finish id st)
  | _ => none

/-- INIT cfg (R160). -/
def execInit (cfg : Byte) (s : State) : Host.Outcome State Fault Refusal :=
  drive (.instr (.init cfg)) (initProgram s.params cfg) s

end Sys2Proof.Machine
end

