-- ==== Sys2Proof/Machine/Interrupt.lean ====
section
/-! DEFINITION. SETINT and CLRLATCH (44_interrupt R180–R183). -/

namespace Sys2Proof.Machine

/-- SETINT's labels (R180). -/
def setintProgram (P : Params) (mask : Byte) : Label → Option Act
  | .write w => some (memWrite P P.regIntsrc [mask] .write .finish w)
  | .finish code => some (.finish id code)
  | _ => none

/-- SETINT mask (R180). -/
def execSetint (mask : Byte) (s : State) : Host.Outcome State Fault Refusal :=
  drive (.instr (.setint mask)) (setintProgram s.params mask) s

/-- CLRLATCH's labels (R181): the enable write is reached only from a clear write that returned Success (R182). -/
def clrlatchProgram (P : Params) : Label → Option Act
  | .clear w =>
      some (memWrite P P.regLatch [P.latchClearValue] .clear
        (fun s1 => if s1 = success then .enable .w1 else .finish s1) w)
  | .enable w => some (memWrite P P.regLatch [P.latchEnableValue] .enable .finish w)
  | .finish code => some (.finish id code)
  | _ => none

/-- CLRLATCH (R181). -/
def execClrlatch (s : State) : Host.Outcome State Fault Refusal :=
  drive (.instr .clrlatch) (clrlatchProgram s.params) s

end Sys2Proof.Machine
end

