-- ==== Sys2Proof/Machine/Orientation.lean ====
section
/-! DEFINITION. ORIENT (42_orientation R141–R143). -/

namespace Sys2Proof.Machine

/-- ORIENT's result writes with the read's status: the three axis values together, and only on Success (R142, R143). -/
def State.takeAxes (s : State) (code : Code) : State :=
  if code = success then
    let t := axes s.buf
    { s with resX := t.1, resY := t.2.1, resZ := t.2.2 }
  else s

/-- ORIENT's labels (R142): the results are written in the finish step (R43). -/
def orientProgram (P : Params) : Label → Option Act
  | .read r => some (memRead P P.regOutBase .read .finish r)
  | .finish code => some (.finish (fun s => s.takeAxes code) code)
  | _ => none

/-- ORIENT (R142). -/
def execOrient (s : State) : Host.Outcome State Fault Refusal :=
  drive (.instr .orient) (orientProgram s.params) s

end Sys2Proof.Machine
end

