-- ==== Sys2Proof/Machine/Dispatch.lean ====
section
/-! DEFINITION. The meaning of each command: one step of the command from where SEQ holds it. -/

namespace Sys2Proof.Machine

def exec (i : Instr) (s : State) : Host.Outcome State Fault Refusal :=
  match i with
  | .setmode mask => Sys2Proof.Machine.execSetmode mask s
  | .getmode => Sys2Proof.Machine.execGetmode s
  | .getsens => Sys2Proof.Machine.execGetsens s
  | .orient => Sys2Proof.Machine.execOrient s
  | .init cfg => Sys2Proof.Machine.execInit cfg s
  | .setint mask => Sys2Proof.Machine.execSetint mask s
  | .clrlatch => Sys2Proof.Machine.execClrlatch s

end Sys2Proof.Machine
end

