-- ==== Sys2Proof/Machine/IllegalWord.lean ====
section
/-! DEFINITION. ILLEGAL, the command every illegal word decodes to (60_exceptions R205). -/

namespace Sys2Proof.Machine

/-- ILLEGAL's one label (R205): finish(IllegalCommand), no primitive, nothing else. -/
def illegalProgram : Label → Option Act
  | .start => some (.finish id illegalCommand)
  | _ => none

/-- ILLEGAL (R205). -/
def execIllegal (s : State) : Host.Outcome State Fault Refusal :=
  drive .illegal illegalProgram s

end Sys2Proof.Machine
end

