-- ==== Sys2Proof/Machine/Step.lean ====
section
/-! DEFINITION. One step of the machine: a reset that is due (60_exceptions R207), else the agent SEQ makes next: the Host
when the block is idle (10_state R42), the running command otherwise (R22, R39). -/

namespace Sys2Proof.Machine

/-- One step of the command that SEQ holds: a command runs its meaning, ILLEGAL its own (R205). -/
def execCommand (c : Command) (s : State) : Host.Outcome State Fault Refusal :=
  match c with
  | .instr i => exec i s
  | .illegal => execIllegal s

/-- The step when no reset strikes: an idle block takes the word the Host issues next (R42), or has no step while the Host
issues none (R253; log 12); a running command takes its step. -/
def advance (s : State) : Host.Outcome State Fault Refusal :=
  match s.seq with
  | .idle =>
    match s.host with
    | .issue w :: rest => .next ({ s with host := rest }.accept w)
    | _ => .next s
  | .run c _ => execCommand c s
  | .wait c _ _ => execCommand c s

/-- One step. A reset that is due has priority over every other event of the step (R207, R240); one that is not yet due
comes one step nearer. -/
def step (s : State) : Host.Outcome State Fault Refusal :=
  match s.host with
  | .reset 0 :: rest => .next { s with host := rest }.doReset
  | .reset (n + 1) :: rest => advance { s with host := .reset n :: rest }
  | _ => advance s

/-- The state in which the next step runs the command of a word: SEQ is where the Host's `issue` of that word would leave it
(R42), and no reset is due (log 11). -/
def State.withFetchWord (s : State) (nbits w : Nat) : State :=
  let c : Command := match decodeTableWord nbits w with
    | some i => .instr i
    | none => .illegal
  { s with seq := .run c (startLabel c), host := [] }

end Sys2Proof.Machine
end

