-- ==== Sys2Proof/Machine/Assembler.lean ====
section
/-! DEFINITION. The spec's assembler (30_encoding R77, R78): one line of text to a command word. The Host uses it to form the
words it issues; the block has no part in it. What R77 leaves open of the text is in log 14. -/

namespace Sys2Proof.Machine

/-- Why a line is an assembly error (R77). -/
inductive AsmError where
  /-- The first word is no mnemonic. -/
  | unknownMnemonic
  /-- An operand is neither an integer nor a symbol. -/
  | badOperand
  /-- The command takes another number of operands. -/
  | operandCount
  /-- An operand is outside 0..255. -/
  | operandRange
  deriving DecidableEq, Repr

/-- The mnemonics as they are written (R77). -/
def mnemonicNames : List (List Char × Mnemonic) :=
  [("SETMODE".toList, .setmode), ("GETMODE".toList, .getmode), ("GETSENS".toList, .getsens), ("ORIENT".toList, .orient),
   ("INIT".toList, .init), ("SETINT".toList, .setint), ("CLRLATCH".toList, .clrlatch)]

/-- The symbolic constants (R78): the codes of R120 under the assembler's names. -/
def symbolNames : List (List Char × Byte) :=
  [("STANDBY".toList, (modeCode .standby).setWidth 8), ("MEASURE".toList, (modeCode .measurement).setWidth 8),
   ("LEVEL".toList, (modeCode .levelDetection).setWidth 8), ("PULSE".toList, (modeCode .pulseDetection).setWidth 8),
   ("G8".toList, sensCode .g8), ("G2".toList, sensCode .g2), ("G4".toList, sensCode .g4)]

/-- The separators between words: a space and a tab. -/
def isBlank (c : Char) : Bool := c == ' ' || c == '\t'

/-- A text without its leading and trailing blanks. -/
def trimBlanks (cs : List Char) : List Char := ((cs.dropWhile isBlank).reverse.dropWhile isBlank).reverse

/-- The pieces of a text between its commas. -/
def splitCommas (cs : List Char) : List (List Char) :=
  cs.foldr (fun c ps => if c = ',' then [] :: ps else match ps with | [] => [[c]] | p :: ps => (c :: p) :: ps) [[]]

/-- The value of a digit below `base`. -/
def digitValue (base : Nat) (c : Char) : Option Nat :=
  let v :=
    if '0' ≤ c ∧ c ≤ '9' then c.toNat - '0'.toNat
    else if 'a' ≤ c ∧ c ≤ 'f' then c.toNat - 'a'.toNat + 10
    else if 'A' ≤ c ∧ c ≤ 'F' then c.toNat - 'A'.toNat + 10
    else base
  if v < base then some v else none

/-- The value of one or more digits. -/
def digitsValue (base : Nat) (cs : List Char) : Option Nat :=
  if cs.isEmpty then none
  else cs.foldl (fun acc c => acc.bind fun n => (digitValue base c).map (n * base + ·)) (some 0)

/-- An operand: an integer in decimal or as 0x.., or a symbol (R77, R78). -/
def operandValue (cs : List Char) : Option Nat :=
  match symbolNames.lookup cs with
  | some v => some v.toNat
  | none =>
    match cs with
    | '0' :: 'x' :: hex => digitsValue 16 hex
    | _ => digitsValue 10 cs

/-- A line of text read as a mnemonic and operands; none for a line that holds only a comment or nothing. `;` starts a
comment (R77). -/
def parseLine (text : List Char) : Except AsmError (Option Line) :=
  match trimBlanks (text.takeWhile (· ≠ ';')) with
  | [] => .ok none
  | body =>
    match mnemonicNames.lookup (body.takeWhile (fun c => !isBlank c)) with
    | none => .error .unknownMnemonic
    | some m =>
      match trimBlanks (body.dropWhile (fun c => !isBlank c)) with
      | [] => .ok (some ⟨m, []⟩)
      | rest =>
        match ((splitCommas rest).map trimBlanks).mapM operandValue with
        | none => .error .badOperand
        | some vs => .ok (some ⟨m, vs⟩)

/-- The command of a mnemonic and its operand byte (R77). -/
def Mnemonic.instr (m : Mnemonic) (imm : Byte) : Instr :=
  match m with
  | .setmode => .setmode imm
  | .getmode => .getmode
  | .getsens => .getsens
  | .orient => .orient
  | .init => .init imm
  | .setint => .setint imm
  | .clrlatch => .clrlatch

/-- The operand byte of a line: its operand, or `m | s` for the two operands of the pseudo-instruction (R78); 0 for none. -/
def operandByte (vs : List Nat) : Byte := vs.foldl (fun acc v => acc ||| BitVec.ofNat 8 v) 0

/-- The command word of a line (R77, R78); an operand outside 0..255 is an error, not a command. -/
def assemble (l : Line) : Except AsmError Word :=
  if !l.arityOk then .error .operandCount
  else if !l.rangeOk then .error .operandRange
  else .ok (encode (Mnemonic.instr l.mnemonic (operandByte l.operands)))

/-- A line of text to its command word, if it holds a command (R77). -/
def assembleText (text : List Char) : Except AsmError (Option Word) :=
  match parseLine text with
  | .error e => .error e
  | .ok none => .ok none
  | .ok (some l) => (assemble l).map some

end Sys2Proof.Machine
end

