-- ==== Sys2Proof/Safety.lean ====
section
/-! DEFINITION. What claims about the machine are stated with: the invariant of the states a run can reach, the bounds of
70_reset R252, and what the pseudocode of 40_transport R102 and R103 records and returns for given answers. -/

namespace Sys2Proof.Machine

/-- `n` steps of the machine: the runs claims speak of. -/
def stepN : Nat → State → Host.Outcome State Fault Refusal
  | 0, s => .next s
  | n + 1, s =>
    match step s with
    | .next t => stepN n t
    | .fault r => .fault r
    | .refused r => .refused r

/-- The acts of each command's labels (R22). -/
def program (c : Command) (P : Params) : Label → Option Act :=
  match c with
  | .instr (.setmode mask) => setmodeProgram P mask
  | .instr .getmode => getmodeProgram
  | .instr .getsens => getsensProgram
  | .instr .orient => orientProgram P
  | .instr (.init cfg) => initProgram P cfg
  | .instr (.setint mask) => setintProgram P mask
  | .instr .clrlatch => clrlatchProgram P
  | .illegal => illegalProgram

/-- The primitive an act issues, if it issues one. -/
def Act.primitive : Act → Option Prim
  | .prim q _ => some q
  | .compute _ | .finish _ _ => none

/-- SEQ holds a command at one of its labels and, in Wait, the primitive that label issues (R22). -/
def Seq.ok (P : Params) : Seq → Prop
  | .idle => True
  | .run c p => (program c P p).isSome = true
  | .wait c p q => (program c P p).bind Act.primitive = some q

/-- The label SEQ holds. -/
def Seq.label : Seq → Option Label
  | .idle => none
  | .run _ p | .wait _ p _ => some p

/-- The status codes that stand with a label are those of a procedure's return, 0 to 7 (R100, R200). -/
def Label.codesOk : Label → Prop
  | .modeRet s | .target s | .loop s | .c1 s _ | .c2 s | .c3 s _ _ | .c4 s | .finish s => s.toNat < 8
  | .c1Ret s r => s.toNat < 8 ∧ r.toNat < 8
  | .start | .write _ | .read _ | .clear _ | .enable _ | .mode _ => True

/-- INIT's loop at a label: the target is the scale of the sensitivity (R161), the counter is below CAL_ITERATIONS in the
body and at most that at its head (R162), and C3 writes the offsets of the calibration registers (R164, R165). -/
def State.loopOk (s : State) : Label → Prop
  | .loop _ => s.calT = decodeScale s.sensCache
  | .c1 _ _ | .c1Ret _ _ | .c2 _ | .c4 _ => s.calT = decodeScale s.sensCache ∧ s.calI < s.params.calIterations
  | .c3 _ o _ => s.calT = decodeScale s.sensCache ∧ s.calI < s.params.calIterations ∧ o = s.offsets
  | .start | .write _ | .read _ | .clear _ | .enable _ | .mode _ | .modeRet _ | .target _ | .finish _ => True

/-- The invariant of the machine: SEQ is consistent (R22), the bits SENS_CACHE must not have are 0 (R25), STATUS is none of
the codes never written (R26), CAL_I is in its range (R30), and the label's locals are what the pseudocode makes them. -/
structure Inv (s : State) : Prop where
  seq_ok : s.seq.ok s.params
  sens_legal : s.sensCache &&& 0xF3 = 0
  status_legal : codeLegal s.status = true
  calI_range : s.calI ≤ s.params.calIterations
  codes_ok : ∀ p, s.seq.label = some p → p.codesOk
  loop_ok : ∀ p, s.seq.label = some p → s.loopOk p

/-- No `reset()` is the Host's next act, so none strikes in this step. -/
def State.noReset (s : State) : Prop := ∀ n rest, s.host ≠ .reset n :: rest

/-- The agent that answers `q` does not answer it (R39). -/
def State.unanswered (s : State) (q : Prim) : Prop := s.takeReply q = none

/-- Replies that all answer, from their raw bytes (log 3). -/
def answers (vs : List Byte) : List BusReply := vs.map .answers

/-- The status `MemWrite` of `n` bytes returns when its address XWRITE answers `c1`, its payload XWRITE `c2` and its END
`e`: the first failing check's (R102, R203). -/
def writeCode (n : Nat) (c1 c2 e : Byte) : Code :=
  if c1 ≠ 1 then 6 else if c2.toNat ≠ n then 6 else (e.setWidth 3).setWidth 4

/-- The primitives of that `MemWrite` in the trace, up to the failing check (R102, R105). -/
def writeEvents (P : Params) (reg : Byte) (bs : List Byte) (c1 c2 e : Byte) : List Event :=
  [.prim (.begin P.devAddr) (some .ack), .prim (.xwrite [reg]) (some (.count c1))] ++
    if c1 ≠ 1 then []
    else .prim (.xwrite bs) (some (.count c2)) ::
      if c2.toNat ≠ bs.length then [] else [.prim (.close .stop) (some (.status (e.setWidth 3)))]

/-- The bytes a drain takes, from its pairs of AVAILABLE and READ answers: those before the first 0 (R103). -/
def drained : List (Byte × Byte) → List Byte
  | [] => []
  | (a, b) :: ds => if a = 0 then [] else b :: drained ds

/-- The primitives of that drain in the trace (R103). -/
def drainEvents : List (Byte × Byte) → List Event
  | [] => []
  | (a, b) :: ds =>
    .prim .available (some (.count a)) :: if a = 0 then [] else .prim .read (some (.byte b)) :: drainEvents ds

/-- The END(HOLD) status `e` fails a read only under READ_CHECKS_ADDR_CLOSE (R107). -/
def closeFails (P : Params) (e : Byte) : Bool := P.readChecksAddrClose && e.setWidth 3 != (0 : BitVec 3)

/-- The status `MemRead` of six bytes returns when its address XWRITE answers `c`, its END(HOLD) `e`, its REQUEST `g`, and
its drain `ds`: the first failing check's (R103, R203). -/
def readCode (P : Params) (c e g : Byte) (ds : List (Byte × Byte)) : Code :=
  if c ≠ 1 then 6
  else if closeFails P e then (e.setWidth 3).setWidth 4
  else if g ≠ 6 then 7
  else if (drained ds).length < 6 then 7 else 0

/-- The primitives of that `MemRead` in the trace, up to the failing check (R103, R105). -/
def readEvents (P : Params) (reg : Byte) (c e g : Byte) (ds : List (Byte × Byte)) : List Event :=
  [.prim (.begin P.devAddr) (some .ack), .prim (.xwrite [reg]) (some (.count c))] ++
    if c ≠ 1 then []
    else .prim (.close .hold) (some (.status (e.setWidth 3))) ::
      if closeFails P e then []
      else .prim (.request P.devAddr 6) (some (.count g)) :: if g ≠ 6 then [] else drainEvents ds

/-- The bytes that `MemRead` drains (R108). -/
def readBytes (P : Params) (c e g : Byte) (ds : List (Byte × Byte)) : List Byte :=
  if c ≠ 1 then [] else if closeFails P e then [] else if g ≠ 6 then [] else drained ds

/-- BUF with its first bytes replaced by those drained and the rest kept (R108). -/
def fillBuf (b : Vector Byte 6) (bytes : List Byte) : Vector Byte 6 :=
  Vector.ofFn fun i : Fin 6 => bytes.getD i.val b[i]

/-- The raw answers to the primitives of a `MemRead` of six bytes whose drain is `ds`; the first is the acknowledge's. -/
def readReplies (a c e g : Byte) (ds : List (Byte × Byte)) : List BusReply :=
  answers ([a, c, e, g] ++ ds.flatMap fun d => [d.1, d.2])

/-- The "write-ok" answers of spec/95 for `n` payload bytes. -/
def writeOk (n : Byte) : List BusReply := answers [0, 1, n, 0]

/-- The "read-ok" answers of spec/95 for six bytes. -/
def readOk (b : Vector Byte 6) : List BusReply := readReplies 0 1 0 6 (b.toList.map fun v => (1, v))

/-- The primitives in a list of events. -/
def primCount (es : List Event) : Nat :=
  es.countP fun e => match e with
    | .prim _ _ => true
    | .issue _ | .finish _ => false

/-- The most primitives a command issues (R252). -/
def maxPrims (P : Params) : Command → Nat
  | .instr (.setmode _) | .instr (.setint _) => 4
  | .instr .clrlatch => 8
  | .instr .orient => 16
  | .instr (.init _) => 4 + 21 * P.calIterations
  | .instr .getmode | .instr .getsens | .illegal => 0

/-- The most of them the Transport answers: all but INIT's WAITs (R252). -/
def maxBusPrims (P : Params) : Command → Nat
  | .instr (.init _) => 4 + 20 * P.calIterations
  | c => maxPrims P c

/-- The WAITs of a command (R162, R166). -/
def maxWaits (P : Params) : Command → Nat
  | .instr (.init _) => P.calIterations
  | _ => 0

/-- The six bytes after a successful read, as the three axis values (R141). -/
def axesOf (bytes : List Byte) : Word × Word × Word :=
  (recon (bytes.getD 0 0) (bytes.getD 1 0), recon (bytes.getD 2 0) (bytes.getD 3 0),
    recon (bytes.getD 4 0) (bytes.getD 5 0))

/-- The calibration registers' values after a read that returned `code` with `bytes`: the new ones on Success, the old ones
otherwise (R163). -/
def calAfter (old : Word × Word × Word) (code : Code) (bytes : List Byte) : Word × Word × Word :=
  if code = 0 then axesOf bytes else old

/-- The offsets of a calibration iteration from the calibration registers' values and the target (R164). -/
def offsetsOf (cal : Word × Word × Word) (t : Byte) : Offsets := ⟨offset cal.1, offset cal.2.1, offsetZ cal.2.2 t⟩

/-- The events of one calibration iteration in which everything is accepted and the read gives `b` (R163–R166). -/
def iterationEvents (P : Params) (t : Byte) (b : Vector Byte 6) : List Event :=
  readEvents P P.regOutBase 1 0 6 (b.toList.map fun v => (1, v)) ++
    writeEvents P P.regOffBase (offsetsOf (axesOf b.toList) t).burst 1 6 0 ++
    [.prim (.wait P.calDelayMs) (some .ack)]

end Sys2Proof.Machine
end

