-- ==== Sys2Proof/Laws/State.lean ====
section
/-! SUPPORT. The fields of the state after each named update: one lemma per field per update, so that no later proof
unfolds an update. -/

namespace Sys2Proof.Machine


section
variable (s : State) (w : Word)

@[simp] theorem State.accept_seq : (s.accept w).seq = .run (decode w) (startLabel (decode w)) := rfl
@[simp] theorem State.accept_modeCache : (s.accept w).modeCache = s.modeCache := rfl
@[simp] theorem State.accept_sensCache : (s.accept w).sensCache = s.sensCache := rfl
@[simp] theorem State.accept_status : (s.accept w).status = s.status := rfl
@[simp] theorem State.accept_resByte : (s.accept w).resByte = s.resByte := rfl
@[simp] theorem State.accept_resX : (s.accept w).resX = s.resX := rfl
@[simp] theorem State.accept_resY : (s.accept w).resY = s.resY := rfl
@[simp] theorem State.accept_resZ : (s.accept w).resZ = s.resZ := rfl
@[simp] theorem State.accept_calX : (s.accept w).calX = s.calX := rfl
@[simp] theorem State.accept_calY : (s.accept w).calY = s.calY := rfl
@[simp] theorem State.accept_calZ : (s.accept w).calZ = s.calZ := rfl
@[simp] theorem State.accept_calT : (s.accept w).calT = s.calT := rfl
@[simp] theorem State.accept_calI : (s.accept w).calI = s.calI := rfl
@[simp] theorem State.accept_buf : (s.accept w).buf = s.buf := rfl
@[simp] theorem State.accept_trace : (s.accept w).trace = s.trace ++ [.issue w] := rfl
@[simp] theorem State.accept_params : (s.accept w).params = s.params := rfl
@[simp] theorem State.accept_host : (s.accept w).host = s.host := rfl
@[simp] theorem State.accept_transport : (s.accept w).transport = s.transport := rfl
@[simp] theorem State.accept_timer : (s.accept w).timer = s.timer := rfl
@[simp] theorem State.accept_resets : (s.accept w).resets = s.resets := rfl
end

section
variable (s : State) (code : Code)

@[simp] theorem State.complete_seq : (s.complete code).seq = .idle := rfl
@[simp] theorem State.complete_modeCache : (s.complete code).modeCache = s.modeCache := rfl
@[simp] theorem State.complete_sensCache : (s.complete code).sensCache = s.sensCache := rfl
@[simp] theorem State.complete_status : (s.complete code).status = code := rfl
@[simp] theorem State.complete_resByte : (s.complete code).resByte = s.resByte := rfl
@[simp] theorem State.complete_resX : (s.complete code).resX = s.resX := rfl
@[simp] theorem State.complete_resY : (s.complete code).resY = s.resY := rfl
@[simp] theorem State.complete_resZ : (s.complete code).resZ = s.resZ := rfl
@[simp] theorem State.complete_calX : (s.complete code).calX = s.calX := rfl
@[simp] theorem State.complete_calY : (s.complete code).calY = s.calY := rfl
@[simp] theorem State.complete_calZ : (s.complete code).calZ = s.calZ := rfl
@[simp] theorem State.complete_calT : (s.complete code).calT = s.calT := rfl
@[simp] theorem State.complete_calI : (s.complete code).calI = s.calI := rfl
@[simp] theorem State.complete_buf : (s.complete code).buf = s.buf := rfl
@[simp] theorem State.complete_trace : (s.complete code).trace = s.trace ++ [.finish code] := rfl
@[simp] theorem State.complete_params : (s.complete code).params = s.params := rfl
@[simp] theorem State.complete_host : (s.complete code).host = s.host := rfl
@[simp] theorem State.complete_transport : (s.complete code).transport = s.transport := rfl
@[simp] theorem State.complete_timer : (s.complete code).timer = s.timer := rfl
@[simp] theorem State.complete_resets : (s.complete code).resets = s.resets := rfl
end

section
variable (s : State) 

@[simp] theorem State.startCalibration_seq : (s.startCalibration).seq = s.seq := rfl
@[simp] theorem State.startCalibration_modeCache : (s.startCalibration).modeCache = s.modeCache := rfl
@[simp] theorem State.startCalibration_sensCache : (s.startCalibration).sensCache = s.sensCache := rfl
@[simp] theorem State.startCalibration_status : (s.startCalibration).status = s.status := rfl
@[simp] theorem State.startCalibration_resByte : (s.startCalibration).resByte = s.resByte := rfl
@[simp] theorem State.startCalibration_resX : (s.startCalibration).resX = s.resX := rfl
@[simp] theorem State.startCalibration_resY : (s.startCalibration).resY = s.resY := rfl
@[simp] theorem State.startCalibration_resZ : (s.startCalibration).resZ = s.resZ := rfl
@[simp] theorem State.startCalibration_calX : (s.startCalibration).calX = s.calX := rfl
@[simp] theorem State.startCalibration_calY : (s.startCalibration).calY = s.calY := rfl
@[simp] theorem State.startCalibration_calZ : (s.startCalibration).calZ = s.calZ := rfl
@[simp] theorem State.startCalibration_calT : (s.startCalibration).calT = decodeScale s.sensCache := rfl
@[simp] theorem State.startCalibration_calI : (s.startCalibration).calI = 0 := rfl
@[simp] theorem State.startCalibration_buf : (s.startCalibration).buf = s.buf := rfl
@[simp] theorem State.startCalibration_trace : (s.startCalibration).trace = s.trace := rfl
@[simp] theorem State.startCalibration_params : (s.startCalibration).params = s.params := rfl
@[simp] theorem State.startCalibration_host : (s.startCalibration).host = s.host := rfl
@[simp] theorem State.startCalibration_transport : (s.startCalibration).transport = s.transport := rfl
@[simp] theorem State.startCalibration_timer : (s.startCalibration).timer = s.timer := rfl
@[simp] theorem State.startCalibration_resets : (s.startCalibration).resets = s.resets := rfl
end

section
variable (s : State) 

@[simp] theorem State.doReset_seq : (s.doReset).seq = .run (.instr (.init s.params.initConfig)) (.mode .w1) := rfl
@[simp] theorem State.doReset_modeCache : (s.doReset).modeCache = Config.resetMode (s.resets + 1) := rfl
@[simp] theorem State.doReset_sensCache : (s.doReset).sensCache = (Config.resetSens (s.resets + 1)).setWidth 8 <<< 2 := rfl
@[simp] theorem State.doReset_status : (s.doReset).status = 0 := rfl
@[simp] theorem State.doReset_resByte : (s.doReset).resByte = 0 := rfl
@[simp] theorem State.doReset_resX : (s.doReset).resX = 0 := rfl
@[simp] theorem State.doReset_resY : (s.doReset).resY = 0 := rfl
@[simp] theorem State.doReset_resZ : (s.doReset).resZ = 0 := rfl
@[simp] theorem State.doReset_calX : (s.doReset).calX = Config.resetCalX (s.resets + 1) := rfl
@[simp] theorem State.doReset_calY : (s.doReset).calY = Config.resetCalY (s.resets + 1) := rfl
@[simp] theorem State.doReset_calZ : (s.doReset).calZ = Config.resetCalZ (s.resets + 1) := rfl
@[simp] theorem State.doReset_calT : (s.doReset).calT = Config.resetCalT (s.resets + 1) := rfl
@[simp] theorem State.doReset_calI : (s.doReset).calI = Config.resetCalI (s.resets + 1) % (s.params.calIterations + 1) := rfl
@[simp] theorem State.doReset_buf : (s.doReset).buf = Config.resetBuf (s.resets + 1) := rfl
@[simp] theorem State.doReset_trace : (s.doReset).trace = s.events := rfl
@[simp] theorem State.doReset_params : (s.doReset).params = s.params := rfl
@[simp] theorem State.doReset_host : (s.doReset).host = s.host := rfl
@[simp] theorem State.doReset_transport : (s.doReset).transport = s.transportAfterReset := rfl
@[simp] theorem State.doReset_timer : (s.doReset).timer = s.timerAfterReset := rfl
@[simp] theorem State.doReset_resets : (s.doReset).resets = s.resets + 1 := rfl
end

section
variable (s : State) (mask : Byte) (code : Code)

@[simp] theorem State.cacheMode_seq : (s.cacheMode mask code).seq = s.seq := by
  unfold State.cacheMode; split <;> rfl
@[simp] theorem State.cacheMode_modeCache : (s.cacheMode mask code).modeCache = if code = success then modeField mask else s.modeCache := by
  unfold State.cacheMode; split <;> rfl
@[simp] theorem State.cacheMode_sensCache : (s.cacheMode mask code).sensCache = if code = success then sensField mask else s.sensCache := by
  unfold State.cacheMode; split <;> rfl
@[simp] theorem State.cacheMode_status : (s.cacheMode mask code).status = s.status := by
  unfold State.cacheMode; split <;> rfl
@[simp] theorem State.cacheMode_resByte : (s.cacheMode mask code).resByte = s.resByte := by
  unfold State.cacheMode; split <;> rfl
@[simp] theorem State.cacheMode_resX : (s.cacheMode mask code).resX = s.resX := by
  unfold State.cacheMode; split <;> rfl
@[simp] theorem State.cacheMode_resY : (s.cacheMode mask code).resY = s.resY := by
  unfold State.cacheMode; split <;> rfl
@[simp] theorem State.cacheMode_resZ : (s.cacheMode mask code).resZ = s.resZ := by
  unfold State.cacheMode; split <;> rfl
@[simp] theorem State.cacheMode_calX : (s.cacheMode mask code).calX = s.calX := by
  unfold State.cacheMode; split <;> rfl
@[simp] theorem State.cacheMode_calY : (s.cacheMode mask code).calY = s.calY := by
  unfold State.cacheMode; split <;> rfl
@[simp] theorem State.cacheMode_calZ : (s.cacheMode mask code).calZ = s.calZ := by
  unfold State.cacheMode; split <;> rfl
@[simp] theorem State.cacheMode_calT : (s.cacheMode mask code).calT = s.calT := by
  unfold State.cacheMode; split <;> rfl
@[simp] theorem State.cacheMode_calI : (s.cacheMode mask code).calI = s.calI := by
  unfold State.cacheMode; split <;> rfl
@[simp] theorem State.cacheMode_buf : (s.cacheMode mask code).buf = s.buf := by
  unfold State.cacheMode; split <;> rfl
@[simp] theorem State.cacheMode_trace : (s.cacheMode mask code).trace = s.trace := by
  unfold State.cacheMode; split <;> rfl
@[simp] theorem State.cacheMode_params : (s.cacheMode mask code).params = s.params := by
  unfold State.cacheMode; split <;> rfl
@[simp] theorem State.cacheMode_host : (s.cacheMode mask code).host = s.host := by
  unfold State.cacheMode; split <;> rfl
@[simp] theorem State.cacheMode_transport : (s.cacheMode mask code).transport = s.transport := by
  unfold State.cacheMode; split <;> rfl
@[simp] theorem State.cacheMode_timer : (s.cacheMode mask code).timer = s.timer := by
  unfold State.cacheMode; split <;> rfl
@[simp] theorem State.cacheMode_resets : (s.cacheMode mask code).resets = s.resets := by
  unfold State.cacheMode; split <;> rfl
end

section
variable (s : State) (code : Code)

@[simp] theorem State.takeAxes_seq : (s.takeAxes code).seq = s.seq := by
  unfold State.takeAxes; split <;> rfl
@[simp] theorem State.takeAxes_modeCache : (s.takeAxes code).modeCache = s.modeCache := by
  unfold State.takeAxes; split <;> rfl
@[simp] theorem State.takeAxes_sensCache : (s.takeAxes code).sensCache = s.sensCache := by
  unfold State.takeAxes; split <;> rfl
@[simp] theorem State.takeAxes_status : (s.takeAxes code).status = s.status := by
  unfold State.takeAxes; split <;> rfl
@[simp] theorem State.takeAxes_resByte : (s.takeAxes code).resByte = s.resByte := by
  unfold State.takeAxes; split <;> rfl
@[simp] theorem State.takeAxes_resX : (s.takeAxes code).resX = if code = success then (axes s.buf).1 else s.resX := by
  unfold State.takeAxes; split <;> rfl
@[simp] theorem State.takeAxes_resY : (s.takeAxes code).resY = if code = success then (axes s.buf).2.1 else s.resY := by
  unfold State.takeAxes; split <;> rfl
@[simp] theorem State.takeAxes_resZ : (s.takeAxes code).resZ = if code = success then (axes s.buf).2.2 else s.resZ := by
  unfold State.takeAxes; split <;> rfl
@[simp] theorem State.takeAxes_calX : (s.takeAxes code).calX = s.calX := by
  unfold State.takeAxes; split <;> rfl
@[simp] theorem State.takeAxes_calY : (s.takeAxes code).calY = s.calY := by
  unfold State.takeAxes; split <;> rfl
@[simp] theorem State.takeAxes_calZ : (s.takeAxes code).calZ = s.calZ := by
  unfold State.takeAxes; split <;> rfl
@[simp] theorem State.takeAxes_calT : (s.takeAxes code).calT = s.calT := by
  unfold State.takeAxes; split <;> rfl
@[simp] theorem State.takeAxes_calI : (s.takeAxes code).calI = s.calI := by
  unfold State.takeAxes; split <;> rfl
@[simp] theorem State.takeAxes_buf : (s.takeAxes code).buf = s.buf := by
  unfold State.takeAxes; split <;> rfl
@[simp] theorem State.takeAxes_trace : (s.takeAxes code).trace = s.trace := by
  unfold State.takeAxes; split <;> rfl
@[simp] theorem State.takeAxes_params : (s.takeAxes code).params = s.params := by
  unfold State.takeAxes; split <;> rfl
@[simp] theorem State.takeAxes_host : (s.takeAxes code).host = s.host := by
  unfold State.takeAxes; split <;> rfl
@[simp] theorem State.takeAxes_transport : (s.takeAxes code).transport = s.transport := by
  unfold State.takeAxes; split <;> rfl
@[simp] theorem State.takeAxes_timer : (s.takeAxes code).timer = s.timer := by
  unfold State.takeAxes; split <;> rfl
@[simp] theorem State.takeAxes_resets : (s.takeAxes code).resets = s.resets := by
  unfold State.takeAxes; split <;> rfl
end

section
variable (s : State) (code : Code)

@[simp] theorem State.takeCalibration_seq : (s.takeCalibration code).seq = s.seq := by
  unfold State.takeCalibration; split <;> rfl
@[simp] theorem State.takeCalibration_modeCache : (s.takeCalibration code).modeCache = s.modeCache := by
  unfold State.takeCalibration; split <;> rfl
@[simp] theorem State.takeCalibration_sensCache : (s.takeCalibration code).sensCache = s.sensCache := by
  unfold State.takeCalibration; split <;> rfl
@[simp] theorem State.takeCalibration_status : (s.takeCalibration code).status = s.status := by
  unfold State.takeCalibration; split <;> rfl
@[simp] theorem State.takeCalibration_resByte : (s.takeCalibration code).resByte = s.resByte := by
  unfold State.takeCalibration; split <;> rfl
@[simp] theorem State.takeCalibration_resX : (s.takeCalibration code).resX = s.resX := by
  unfold State.takeCalibration; split <;> rfl
@[simp] theorem State.takeCalibration_resY : (s.takeCalibration code).resY = s.resY := by
  unfold State.takeCalibration; split <;> rfl
@[simp] theorem State.takeCalibration_resZ : (s.takeCalibration code).resZ = s.resZ := by
  unfold State.takeCalibration; split <;> rfl
@[simp] theorem State.takeCalibration_calX : (s.takeCalibration code).calX = if code = success then (axes s.buf).1 else s.calX := by
  unfold State.takeCalibration; split <;> rfl
@[simp] theorem State.takeCalibration_calY : (s.takeCalibration code).calY = if code = success then (axes s.buf).2.1 else s.calY := by
  unfold State.takeCalibration; split <;> rfl
@[simp] theorem State.takeCalibration_calZ : (s.takeCalibration code).calZ = if code = success then (axes s.buf).2.2 else s.calZ := by
  unfold State.takeCalibration; split <;> rfl
@[simp] theorem State.takeCalibration_calT : (s.takeCalibration code).calT = s.calT := by
  unfold State.takeCalibration; split <;> rfl
@[simp] theorem State.takeCalibration_calI : (s.takeCalibration code).calI = s.calI := by
  unfold State.takeCalibration; split <;> rfl
@[simp] theorem State.takeCalibration_buf : (s.takeCalibration code).buf = s.buf := by
  unfold State.takeCalibration; split <;> rfl
@[simp] theorem State.takeCalibration_trace : (s.takeCalibration code).trace = s.trace := by
  unfold State.takeCalibration; split <;> rfl
@[simp] theorem State.takeCalibration_params : (s.takeCalibration code).params = s.params := by
  unfold State.takeCalibration; split <;> rfl
@[simp] theorem State.takeCalibration_host : (s.takeCalibration code).host = s.host := by
  unfold State.takeCalibration; split <;> rfl
@[simp] theorem State.takeCalibration_transport : (s.takeCalibration code).transport = s.transport := by
  unfold State.takeCalibration; split <;> rfl
@[simp] theorem State.takeCalibration_timer : (s.takeCalibration code).timer = s.timer := by
  unfold State.takeCalibration; split <;> rfl
@[simp] theorem State.takeCalibration_resets : (s.takeCalibration code).resets = s.resets := by
  unfold State.takeCalibration; split <;> rfl
end

end Sys2Proof.Machine
end

