-- ==== Sys2Proof/Laws/Ops.lean ====
section
/-! SUPPORT. One lemma per shared operation that says everything it can do: the answer of an agent, a command's step, the
machine's step. -/

namespace Sys2Proof.Machine

/-- The Transport answers. -/
theorem State.takeReply_bus {s : State} {q : Prim} {v : Byte} {rest : List BusReply} (hq : q.toTimer = false)
    (h : s.transport = .answers v :: rest) : s.takeReply q = some (v, { s with transport := rest }) := by
  simp [State.takeReply, hq, h]

/-- The Delay timer answers. -/
theorem State.takeReply_timer {s : State} {ms : Nat} {rest : List TimerReply} (h : s.timer = .elapsed :: rest) :
    s.takeReply (.wait ms) = some (0, { s with timer := rest }) := by
  simp [State.takeReply, Prim.toTimer, h]

/-- Everything a taken reply can be: the Delay timer's to a WAIT, the Transport's to any other primitive. -/
theorem State.takeReply_cases {s s' : State} {q : Prim} {v : Byte} (h : s.takeReply q = some (v, s')) :
    (q.toTimer = true ∧ v = 0 ∧ ∃ rest, s.timer = .elapsed :: rest ∧ s' = { s with timer := rest }) ∨
      (q.toTimer = false ∧ ∃ rest, s.transport = .answers v :: rest ∧ s' = { s with transport := rest }) := by
  unfold State.takeReply at h
  split at h
  case isTrue hq =>
    split at h
    · rename_i rest hs
      simp only [Option.some.injEq, Prod.mk.injEq] at h
      exact .inl ⟨hq, h.1.symm, rest, hs, h.2.symm⟩
    · cases h
  case isFalse hq =>
    split at h
    · rename_i v' rest hs
      simp only [Option.some.injEq, Prod.mk.injEq] at h
      obtain ⟨rfl, rfl⟩ := h
      exact .inr ⟨by simpa using hq, rest, hs, rfl⟩
    · cases h

/-- A command that holds for an answer that does not come changes nothing (R39). -/
theorem State.resume_unanswered {s : State} {c : Command} {q : Prim} {k : Byte → State → State × Label}
    (h : s.takeReply q = none) : s.resume c q k = s := by
  simp [State.resume, h]

/-- A command that holds for an answer that comes goes on from it (R39, R41). -/
theorem State.resume_answered {s s' : State} {c : Command} {q : Prim} {k : Byte → State → State × Label} {v : Byte}
    (h : s.takeReply q = some (v, s')) :
    s.resume c q k =
      { (k v s').1 with seq := .run c (k v s').2, trace := s.trace ++ [.prim q (some (q.answer v))] } := by
  simp [State.resume, h]

/-- A command's step at a label of its own. -/
theorem drive_run {c : Command} {prog : Label → Option Act} {s : State} {p : Label} {a : Act}
    (hs : s.seq = .run c p) (ha : prog p = some a) : drive c prog s = .next (s.perform c p a) := by
  simp [drive, hs, ha]

/-- A command's step while it holds for the answer to the primitive its label issued. -/
theorem drive_wait {c : Command} {prog : Label → Option Act} {s : State} {p : Label} {q : Prim}
    {k : Byte → State → State × Label} (hs : s.seq = .wait c p q) (ha : prog p = some (.prim q k)) :
    drive c prog s = .next (s.resume c q k) := by
  simp [drive, hs, ha]

/-- Everything a command's step can do when it answers a next state: the act of the label SEQ holds, or the answer SEQ holds
for. -/
theorem drive_cases {c : Command} {prog : Label → Option Act} {s t : State} (h : drive c prog s = .next t) :
    (∃ p a, s.seq = .run c p ∧ prog p = some a ∧ t = s.perform c p a) ∨
      (∃ p q k, s.seq = .wait c p q ∧ prog p = some (.prim q k) ∧ t = s.resume c q k) := by
  unfold drive at h
  split at h
  · cases h
  · rename_i d p hs
    split at h
    · rename_i hd
      subst hd
      split at h
      · rename_i a ha
        cases h
        exact .inl ⟨p, a, hs, ha, rfl⟩
      · cases h
    · cases h
  · rename_i d p q hs
    split at h
    · rename_i hd
      subst hd
      split at h
      · rename_i q' k ha
        split at h
        · rename_i hq
          subst hq
          cases h
          exact .inr ⟨p, _, k, hs, ha, rfl⟩
        · cases h
      · cases h
    · cases h

/-- A command's step never refuses. -/
theorem drive_not_refused {c : Command} {prog : Label → Option Act} {s : State} {r : Refusal} :
    drive c prog s ≠ .refused r := by
  unfold drive
  repeat' split
  all_goals simp

/-- Every meaning is a step of its command along its own labels. -/
theorem execCommand_eq (c : Command) (s : State) : execCommand c s = drive c (program c s.params) s := by
  rcases c with (_ | _ | _ | _ | _ | _ | _) | _ <;> rfl

/-- The meaning of a command of the table, as a step along its own labels. -/
theorem exec_eq (i : Instr) (s : State) : exec i s = drive (.instr i) (program (.instr i) s.params) s :=
  execCommand_eq (.instr i) s

/-- Everything a command's step can leave when it answers a next state: a primitive issued, an internal step, the
completion, a hold for an answer that does not come, the acknowledge of a WAIT, the Transport's answer. -/
theorem execCommand_cases {c : Command} {s t : State} (h : execCommand c s = .next t) :
    (∃ p q k, s.seq = .run c p ∧ program c s.params p = some (.prim q k) ∧ t = { s with seq := .wait c p q }) ∨
    (∃ p f, s.seq = .run c p ∧ program c s.params p = some (.compute f) ∧
      t = { (f s).1 with seq := .run c (f s).2 }) ∨
    (∃ p f code, s.seq = .run c p ∧ program c s.params p = some (.finish f code) ∧ t = (f s).complete code) ∨
    (∃ p q k, s.seq = .wait c p q ∧ program c s.params p = some (.prim q k) ∧ s.takeReply q = none ∧ t = s) ∨
    (∃ p ms k rest, s.seq = .wait c p (.wait ms) ∧ program c s.params p = some (.prim (.wait ms) k) ∧
      s.timer = .elapsed :: rest ∧ t = { (k 0 { s with timer := rest }).1 with
        seq := .run c (k 0 { s with timer := rest }).2, trace := s.trace ++ [.prim (.wait ms) (some .ack)] }) ∨
    (∃ p q k v rest, s.seq = .wait c p q ∧ program c s.params p = some (.prim q k) ∧ q.toTimer = false ∧
      s.transport = .answers v :: rest ∧ t = { (k v { s with transport := rest }).1 with
        seq := .run c (k v { s with transport := rest }).2, trace := s.trace ++ [.prim q (some (q.answer v))] }) := by
  rw [execCommand_eq] at h
  rcases drive_cases h with ⟨p, a, hs, ha, rfl⟩ | ⟨p, q, k, hs, ha, rfl⟩
  · cases a with
    | prim q k => exact .inl ⟨p, q, k, hs, ha, rfl⟩
    | compute f => exact .inr (.inl ⟨p, f, hs, ha, rfl⟩)
    | finish f code => exact .inr (.inr (.inl ⟨p, f, code, hs, ha, rfl⟩))
  · cases hr : s.takeReply q with
    | none => exact .inr (.inr (.inr (.inl ⟨p, q, k, hs, ha, hr, State.resume_unanswered hr⟩)))
    | some x =>
      obtain ⟨v, s'⟩ := x
      rw [State.resume_answered hr]
      rcases State.takeReply_cases hr with ⟨hq, rfl, rest, ht, rfl⟩ | ⟨hq, rest, ht, rfl⟩
      · cases q <;> simp [Prim.toTimer] at hq
        exact .inr (.inr (.inr (.inr (.inl ⟨p, _, k, rest, hs, ha, ht, rfl⟩))))
      · exact .inr (.inr (.inr (.inr (.inr ⟨p, q, k, v, rest, hs, ha, hq, ht, rfl⟩))))

/-- The step while no reset is the Host's next act. -/
theorem step_noReset {s : State} (h : s.noReset) : step s = advance s := by
  unfold step
  split
  · rename_i rest hs
    exact absurd hs (h 0 rest)
  · rename_i n rest hs
    exact absurd hs (h (n + 1) rest)
  · rfl

/-- The step of a running command. -/
theorem advance_run {s : State} {c : Command} {p : Label} (h : s.seq = .run c p) : advance s = execCommand c s := by
  simp [advance, h]

/-- The step of a holding command. -/
theorem advance_wait {s : State} {c : Command} {p : Label} {q : Prim} (h : s.seq = .wait c p q) :
    advance s = execCommand c s := by
  simp [advance, h]

/-- Everything a step without a reset can do when it answers a next state. -/
theorem advance_cases {s t : State} (h : advance s = .next t) :
    (s.seq = .idle ∧ ∃ w rest, s.host = .issue w :: rest ∧ t = { s with host := rest }.accept w) ∨
      (s.seq = .idle ∧ (∀ w rest, s.host ≠ .issue w :: rest) ∧ t = s) ∨
      ∃ c, s.seq.command = some c ∧ execCommand c s = .next t := by
  unfold advance at h
  split at h
  · rename_i hs
    split at h
    · rename_i w rest hh
      cases h
      exact .inl ⟨hs, w, rest, hh, rfl⟩
    · rename_i hh
      cases h
      exact .inr (.inl ⟨hs, hh, rfl⟩)
  · rename_i c p hs
    exact .inr (.inr ⟨c, by simp [hs, Seq.command], h⟩)
  · rename_i c p q hs
    exact .inr (.inr ⟨c, by simp [hs, Seq.command], h⟩)

/-- Everything a step can do when it answers a next state: a reset strikes, one comes nearer, or none is the Host's next
act. -/
theorem step_cases {s t : State} (h : step s = .next t) :
    (∃ rest, s.host = .reset 0 :: rest ∧ t = { s with host := rest }.doReset) ∨
      (∃ n rest, s.host = .reset (n + 1) :: rest ∧ advance { s with host := .reset n :: rest } = .next t) ∨
      (s.noReset ∧ advance s = .next t) := by
  unfold step at h
  split at h
  · rename_i rest hs
    cases h
    exact .inl ⟨rest, hs, rfl⟩
  · rename_i n rest hs
    exact .inr (.inl ⟨n, rest, hs, h⟩)
  · rename_i h0 h1
    refine .inr (.inr ⟨fun n rest hs => ?_, h⟩)
    cases n with
    | zero => exact h0 rest hs
    | succ n => exact h1 n rest hs

end Sys2Proof.Machine
end

