-- ==== Sys2Proof/Laws/PerInstr.lean ====
section
/-! SUPPORT. Statements about every command as syntax, one lemma per constructor of `Instr`. -/

/-- The word of a command selects that command's row of the opcode map, and no other (30_encoding R74). -/
def Sys2Proof.Laws.RowOfWord.Statement (i : Sys2Proof.Instr) : Prop :=
  ∃ r, Sys2Proof.opcodeMap.filter (fun r => r.selects (Sys2Proof.encode i)) = [r] ∧
    Sys2Proof.Machine.Mnemonic.instr r.mnemonic i.operand = i

theorem Sys2Proof.Laws.RowOfWord.setmode (mask : Sys2Proof.Byte) :
    Sys2Proof.Laws.RowOfWord.Statement (.setmode mask) :=
  ⟨⟨.setmode, 0x0100, 0xFF00⟩, by revert mask; decide, rfl⟩

theorem Sys2Proof.Laws.RowOfWord.getmode : Sys2Proof.Laws.RowOfWord.Statement .getmode :=
  ⟨⟨.getmode, 0x0200, 0xFFFF⟩, by decide, rfl⟩

theorem Sys2Proof.Laws.RowOfWord.getsens : Sys2Proof.Laws.RowOfWord.Statement .getsens :=
  ⟨⟨.getsens, 0x0300, 0xFFFF⟩, by decide, rfl⟩

theorem Sys2Proof.Laws.RowOfWord.orient : Sys2Proof.Laws.RowOfWord.Statement .orient :=
  ⟨⟨.orient, 0x0400, 0xFFFF⟩, by decide, rfl⟩

theorem Sys2Proof.Laws.RowOfWord.init (cfg : Sys2Proof.Byte) : Sys2Proof.Laws.RowOfWord.Statement (.init cfg) :=
  ⟨⟨.init, 0x0500, 0xFF00⟩, by revert cfg; decide, rfl⟩

theorem Sys2Proof.Laws.RowOfWord.setint (mask : Sys2Proof.Byte) :
    Sys2Proof.Laws.RowOfWord.Statement (.setint mask) :=
  ⟨⟨.setint, 0x0600, 0xFF00⟩, by revert mask; decide, rfl⟩

theorem Sys2Proof.Laws.RowOfWord.clrlatch : Sys2Proof.Laws.RowOfWord.Statement .clrlatch :=
  ⟨⟨.clrlatch, 0x0700, 0xFFFF⟩, by decide, rfl⟩
end

