-- ==== Sys2Proof/Laws/Transport.lean ====
section
/-! SUPPORT. What each label of the two register procedures does: it issues one primitive, and from its answer goes to
another label of the procedure or returns a status of 0 to 7. -/

namespace Sys2Proof.Machine

/-- A transfer status is a code below 8 (R106). -/
theorem codeOfStatus_lt (x : BitVec 3) : (codeOfStatus x).toNat < 8 := by
  have := x.isLt
  simp only [codeOfStatus, BitVec.toNat_setWidth]
  omega

/-- Every label of `MemWrite` issues a primitive of the Transport and, from any answer, changes no register and goes on in the
procedure or returns a code below 8 (R100, R102). -/
theorem memWrite_spec (P : Params) (reg : Byte) (bs : List Byte) (here : WPos → Label) (ret : Code → Label) (w : WPos) :
    ∃ q k, memWrite P reg bs here ret w = .prim q k ∧ q.toTimer = false ∧
      ∀ v s, (k v s).1 = s ∧
        ((∃ w', (k v s).2 = here w') ∨ ∃ code : Code, code.toNat < 8 ∧ (k v s).2 = ret code) := by
  cases w with
  | w1 => exact ⟨_, _, rfl, rfl, fun v s => ⟨rfl, .inl ⟨_, rfl⟩⟩⟩
  | w2 =>
    refine ⟨_, _, rfl, rfl, fun v s => ⟨rfl, ?_⟩⟩
    dsimp only
    split
    · exact .inl ⟨_, rfl⟩
    · exact .inr ⟨writeRejected, by decide, rfl⟩
  | w3 =>
    refine ⟨_, _, rfl, rfl, fun v s => ⟨rfl, ?_⟩⟩
    dsimp only
    split
    · exact .inl ⟨_, rfl⟩
    · exact .inr ⟨writeRejected, by decide, rfl⟩
  | w4 => exact ⟨_, _, rfl, rfl, fun v s => ⟨rfl, .inr ⟨_, codeOfStatus_lt _, rfl⟩⟩⟩

/-- Every label of `MemRead` issues a primitive of the Transport and, from any answer, changes at most BUF and goes on in the
procedure or returns a code below 8 (R100, R103). -/
theorem memRead_spec (P : Params) (reg : Byte) (here : RPos → Label) (ret : Code → Label) (r : RPos) :
    ∃ q k, memRead P reg here ret r = .prim q k ∧ q.toTimer = false ∧
      ∀ v s, (k v s).1 = { s with buf := (k v s).1.buf } ∧
        ((∃ r', (k v s).2 = here r') ∨ ∃ code : Code, code.toNat < 8 ∧ (k v s).2 = ret code) := by
  cases r with
  | r1 => exact ⟨_, _, rfl, rfl, fun v s => ⟨rfl, .inl ⟨_, rfl⟩⟩⟩
  | r2 =>
    refine ⟨_, _, rfl, rfl, fun v s => ⟨rfl, ?_⟩⟩
    dsimp only
    split
    · exact .inl ⟨_, rfl⟩
    · exact .inr ⟨writeRejected, by decide, rfl⟩
  | r3 =>
    refine ⟨_, _, rfl, rfl, fun v s => ⟨rfl, ?_⟩⟩
    dsimp only
    split
    · exact .inr ⟨_, codeOfStatus_lt _, rfl⟩
    · exact .inl ⟨_, rfl⟩
  | r4 =>
    refine ⟨_, _, rfl, rfl, fun v s => ⟨rfl, ?_⟩⟩
    dsimp only
    split
    · exact .inl ⟨_, rfl⟩
    · exact .inr ⟨lengthMismatch, by decide, rfl⟩
  | r5 i =>
    refine ⟨_, _, rfl, rfl, fun v s => ⟨rfl, ?_⟩⟩
    dsimp only
    split
    · exact .inr ⟨lengthMismatch, by decide, rfl⟩
    · exact .inl ⟨_, rfl⟩
  | r6 i =>
    refine ⟨_, _, rfl, rfl, fun v s => ⟨rfl, ?_⟩⟩
    dsimp only [afterByte]
    split
    · exact .inl ⟨_, rfl⟩
    · exact .inr ⟨success, by decide, rfl⟩

end Sys2Proof.Machine
end

