-- ==== Sys2Proof/Laws/Run.lean ====
section
/-! SUPPORT. Runs: one step at a time, and the two steps of a primitive that is answered. -/

namespace Sys2Proof.Machine

/-- The runs claims speak of are those of the host's interface. -/
theorem stepN_eq_core (n : Nat) (s : State) : stepN n s = Host.Core.run core n s := by
  induction n generalizing s with
  | zero => rfl
  | succ n ih =>
    cases hs : step s with
    | next t =>
      have hc : core.step s = .next t := hs
      simp only [stepN, Host.Core.run, hs, hc, ih]
      rfl
    | fault r =>
      have hc : core.step s = .fault r := hs
      simp only [stepN, Host.Core.run, hs, hc]
      rfl
    | refused r =>
      have hc : core.step s = .refused r := hs
      simp only [stepN, Host.Core.run, hs, hc]
      rfl

/-- A run's first step. -/
theorem stepN_step {s t : State} (n : Nat) (h : step s = .next t) : stepN (n + 1) s = stepN n t := by
  simp [stepN, h]

/-- A run of no steps. -/
theorem stepN_zero (s : State) : stepN 0 s = .next s := rfl

/-- A run's first step, read backwards. -/
theorem stepN_succ_cases {s t : State} {n : Nat} (h : stepN (n + 1) s = .next t) :
    ∃ u, step s = .next u ∧ stepN n u = .next t := by
  unfold stepN at h
  split at h
  · rename_i u hu
    exact ⟨u, hu, h⟩
  · cases h
  · cases h

/-- A run in two parts. -/
theorem stepN_add (m n : Nat) {s t : State} (h : stepN m s = .next t) : stepN (m + n) s = stepN n t := by
  induction m generalizing s with
  | zero =>
    cases h
    rw [Nat.zero_add]
  | succ m ih =>
    obtain ⟨u, hu, hr⟩ := stepN_succ_cases h
    rw [Nat.succ_add, stepN_step _ hu, ih hr]

/-- The step of the command SEQ holds at a label. -/
theorem step_run {s : State} {c : Command} {p : Label} {a : Act} (hn : s.noReset) (hs : s.seq = .run c p)
    (ha : program c s.params p = some a) : step s = .next (s.perform c p a) := by
  rw [step_noReset hn, advance_run hs, execCommand_eq, drive_run hs ha]

/-- The step of the command that holds for an answer. -/
theorem step_wait {s : State} {c : Command} {p : Label} {q : Prim} {k : Byte → State → State × Label} (hn : s.noReset)
    (hs : s.seq = .wait c p q) (ha : program c s.params p = some (.prim q k)) :
    step s = .next (s.resume c q k) := by
  rw [step_noReset hn, advance_wait hs, execCommand_eq, drive_wait hs ha]

/-- The two steps of a primitive the Transport answers. -/
theorem stepN_bus {s u : State} {P : Params} {c : Command} {p p' : Label} {q : Prim} {k : Byte → State → State × Label} {v : Byte}
    {rest : List BusReply} (n : Nat) (hn : s.noReset) (hs : s.seq = .run c p)
    (hP : s.params = P) (ha : program c P p = some (.prim q k)) (hq : q.toTimer = false) (ht : s.transport = .answers v :: rest)
    (hk : k v { s with seq := .wait c p q, transport := rest } = (u, p')) :
    stepN (n + 2) s =
      stepN n { u with seq := .run c p', trace := s.trace ++ [.prim q (some (q.answer v))] } := by
  subst hP
  rw [stepN_step (n + 1) (step_run hn hs ha),
    stepN_step n (step_wait (s := s.perform c p (.prim q k)) (q := q) (k := k) hn rfl ha),
    State.resume_answered (State.takeReply_bus (s := s.perform c p (.prim q k)) hq ht)]
  simp only [State.perform, hk]

/-- The two steps of a WAIT the Delay timer acknowledges. -/
theorem stepN_timer {s u : State} {P : Params} {c : Command} {p p' : Label} {ms : Nat} {k : Byte → State → State × Label}
    {rest : List TimerReply} (n : Nat) (hn : s.noReset) (hs : s.seq = .run c p)
    (hP : s.params = P) (ha : program c P p = some (.prim (.wait ms) k)) (ht : s.timer = .elapsed :: rest)
    (hk : k 0 { s with seq := .wait c p (.wait ms), timer := rest } = (u, p')) :
    stepN (n + 2) s =
      stepN n { u with seq := .run c p', trace := s.trace ++ [.prim (.wait ms) (some .ack)] } := by
  subst hP
  rw [stepN_step (n + 1) (step_run hn hs ha),
    stepN_step n (step_wait (s := s.perform c p (.prim (.wait ms) k)) (q := .wait ms) (k := k) hn rfl ha),
    State.resume_answered (State.takeReply_timer (s := s.perform c p (.prim (.wait ms) k)) ht)]
  simp only [State.perform, hk, Prim.answer]

end Sys2Proof.Machine
end

