-- ==== Sys2Proof/Laws/Procedures.lean ====
section
/-! SUPPORT. The two register procedures run from their first label to their return, for every answer of the Transport: one
lemma each, which the commands' runs cite. -/

namespace Sys2Proof.Machine

/-- `MemWrite` from its first label, run to its return (R102): for every answer of the Transport, its primitives are recorded
and the caller goes on with its first failing check's status, nothing else changed. -/
theorem write_run {s : State} {c : Command} {reg : Byte} {bs : List Byte} {here : WPos → Label} {ret : Code → Label}
    (hn : s.noReset) (hs : s.seq = .run c (here .w1))
    (hp : ∀ w, program c s.params (here w) = some (memWrite s.params reg bs here ret w))
    (a c1 c2 e : Byte) (rest : List BusReply)
    (ht : s.transport = (answers [a, c1, c2, e]).take (writeEvents s.params reg bs c1 c2 e).length ++ rest) (n : Nat) :
    stepN (n + 2 * (writeEvents s.params reg bs c1 c2 e).length) s =
      stepN n { s with
        seq := .run c (ret (writeCode bs.length c1 c2 e))
        transport := s.transport.drop (writeEvents s.params reg bs c1 c2 e).length
        trace := s.trace ++ writeEvents s.params reg bs c1 c2 e } := by
  by_cases h1 : c1 = 1
  · subst h1
    by_cases h2 : c2.toNat = bs.length
    · have hl : (writeEvents s.params reg bs 1 c2 e).length = 4 := by simp [writeEvents, h2]
      rw [hl] at ht
      have ht' : s.transport = .answers a :: .answers 1 :: .answers c2 :: .answers e :: rest := by
        simpa [answers] using ht
      rw [hl, show n + 2 * 4 = n + 2 + 2 + 2 + 2 from by omega]
      refine Eq.trans (stepN_bus _ hn hs rfl (hp .w1) rfl ht' rfl) ?_
      refine Eq.trans (stepN_bus _ (by exact hn) rfl rfl (hp .w2) rfl rfl rfl) ?_
      dsimp only
      refine Eq.trans (stepN_bus _ (by exact hn) rfl rfl (hp .w3) rfl rfl rfl) ?_
      dsimp only
      rw [if_pos (by simp [countAccepted, h2])]
      refine Eq.trans (stepN_bus _ (by exact hn) rfl rfl (hp .w4) rfl rfl rfl) ?_
      simp [writeEvents, writeCode, h2, ht', Prim.answer, statusOf, codeOfStatus]
    · have hl : (writeEvents s.params reg bs 1 c2 e).length = 3 := by simp [writeEvents, h2]
      rw [hl] at ht
      have ht' : s.transport = .answers a :: .answers 1 :: .answers c2 :: rest := by simpa [answers] using ht
      rw [hl, show n + 2 * 3 = n + 2 + 2 + 2 from by omega]
      refine Eq.trans (stepN_bus _ hn hs rfl (hp .w1) rfl ht' rfl) ?_
      refine Eq.trans (stepN_bus _ (by exact hn) rfl rfl (hp .w2) rfl rfl rfl) ?_
      dsimp only
      refine Eq.trans (stepN_bus _ (by exact hn) rfl rfl (hp .w3) rfl rfl rfl) ?_
      dsimp only
      rw [if_neg (by simp [countAccepted, h2])]
      simp [writeEvents, writeCode, h2, ht', Prim.answer]
  · have hl : (writeEvents s.params reg bs c1 c2 e).length = 2 := by
      have h1'' : ¬ c1 = 1#8 := h1
      simp [writeEvents, h1'']
    have h1' : ¬ c1.toNat = 1 := fun h => h1 (BitVec.eq_of_toNat_eq (by simpa using h))
    rw [hl] at ht
    have ht' : s.transport = .answers a :: .answers c1 :: rest := by simpa [answers] using ht
    rw [hl, show n + 2 * 2 = n + 2 + 2 from by omega]
    refine Eq.trans (stepN_bus _ hn hs rfl (hp .w1) rfl ht' rfl) ?_
    refine Eq.trans (stepN_bus _ (by exact hn) rfl rfl (hp .w2) rfl rfl rfl) ?_
    dsimp only
    rw [if_neg (by simp [countAccepted, h1'])]
    have h1'' : ¬ c1 = 1#8 := h1
    simp [writeEvents, writeCode, h1'', ht', Prim.answer]

/-- A buffer whose bytes from index `i` on are replaced by those drained, as far as they go. -/
def fillAt (i : Nat) (b : Vector Byte 6) (bytes : List Byte) : Vector Byte 6 :=
  Vector.ofFn fun j : Fin 6 => if j.val < i then b[j] else bytes.getD (j.val - i) b[j]

/-- Draining nothing leaves the buffer. -/
theorem fillAt_nil (i : Nat) (b : Vector Byte 6) : fillAt i b [] = b := by
  ext j hj; simp [fillAt]

/-- Draining one byte into index `i`, and the rest after it. -/
theorem fillAt_cons (i : Fin 6) (b : Vector Byte 6) (x : Byte) (xs : List Byte) :
    fillAt (i + 1) (b.set i x) xs = fillAt i b (x :: xs) := by
  apply Vector.ext
  intro j hj
  simp only [fillAt, Vector.getElem_ofFn, Fin.getElem_fin]
  by_cases h : j < i.val
  · rw [if_pos (show j < i.val + 1 by omega), if_pos h, Vector.getElem_set, if_neg (by omega)]
  · by_cases h2 : j = i.val
    · subst h2
      rw [if_pos (by omega), if_neg h, Vector.getElem_set, if_pos rfl]
      simp
    · rw [if_neg (show ¬ j < i.val + 1 by omega), if_neg h, Vector.getElem_set, if_neg (by omega)]
      have : j - i.val = (j - (i.val + 1)) + 1 := by omega
      rw [this, List.getD_cons_succ]

/-- A drain from index 0 is the spec's (R108). -/
theorem fillAt_zero (b : Vector Byte 6) (xs : List Byte) : fillAt 0 b xs = fillBuf b xs := by
  simp [fillAt, fillBuf]

/-- The drain of `MemRead` from index `i` on, run to its return (R103). -/
theorem drain_run {c : Command} {reg : Byte} {here : RPos → Label} {ret : Code → Label} {P : Params}
    (hp : ∀ r, program c P (here r) = some (memRead P reg here ret r))
    (ds : List (Byte × Byte)) : ∀ {s : State} (i : Fin 6), s.params = P → s.noReset → s.seq = .run c (here (.r5 i)) →
    ds.length = 6 - i.val → ∀ (rest : List BusReply),
    s.transport = (answers (ds.flatMap fun d => [d.1, d.2])).take (drainEvents ds).length ++ rest → ∀ n,
    stepN (n + 2 * (drainEvents ds).length) s = stepN n { s with
      seq := .run c (ret (if (drained ds).length < 6 - i.val then 7 else 0))
      buf := fillAt i.val s.buf (drained ds)
      transport := s.transport.drop (drainEvents ds).length
      trace := s.trace ++ drainEvents ds } := by
  induction ds with
  | nil => intro s i _ _ _ hl; simp at hl; omega
  | cons d ds ih =>
    obtain ⟨a, b⟩ := d
    intro s i hP hn hs hl rest ht n
    by_cases ha : a = 0
    · subst ha
      have e1 : drainEvents ((0, b) :: ds) = [.prim .available (some (.count 0))] := by simp [drainEvents]
      have e2 : drained ((0, b) :: ds) = [] := by simp [drained]
      rw [e1] at ht ⊢
      rw [e2]
      have ht' : s.transport = .answers 0 :: rest := by simpa [answers] using ht
      refine Eq.trans (stepN_bus _ hn hs hP (hp _) rfl ht' rfl) ?_
      rw [fillAt_nil]
      have h6 : 0 < 6 - i.val := by omega
      simp [Prim.answer, ht', h6]
    · have ha' : ¬ a = 0#8 := ha
      have e1 : drainEvents ((a, b) :: ds) = .prim .available (some (.count a)) :: .prim .read (some (.byte b)) ::
          drainEvents ds := by simp [drainEvents, ha']
      have e2 : drained ((a, b) :: ds) = b :: drained ds := by simp [drained, ha']
      rw [e1] at ht ⊢
      rw [e2]
      have ht' : s.transport = .answers a :: .answers b ::
          ((answers (ds.flatMap fun d => [d.1, d.2])).take (drainEvents ds).length ++ rest) := by
        simpa [answers] using ht
      simp only [List.length_cons]
      rw [show n + 2 * ((drainEvents ds).length + 1 + 1) = n + 2 * (drainEvents ds).length + 2 + 2 from by omega]
      refine Eq.trans (stepN_bus _ hn hs hP (hp _) rfl ht' rfl) ?_
      dsimp only
      rw [if_neg ha]
      refine Eq.trans (stepN_bus _ (by exact hn) rfl hP (hp _) rfl rfl rfl) ?_
      dsimp only
      by_cases h6 : i.val + 1 < 6
      · have hab : afterByte i here ret = here (.r5 ⟨i.val + 1, h6⟩) := by simp [afterByte, h6]
        rw [hab]
        refine Eq.trans (ih ⟨i.val + 1, h6⟩ (by exact hP) (by exact hn) rfl (by simp at hl ⊢; omega) rest rfl n) ?_
        have hf := fillAt_cons i s.buf b (drained ds)
        simp only [hf, ht', List.drop_succ_cons, Prim.answer, List.append_assoc, List.cons_append, List.nil_append]
        congr 4
        simp only [Nat.sub_add_eq]
        congr 1
        apply propext; omega
      · have hab : afterByte i here ret = ret success := by simp [afterByte, h6]
        have hd : ds = [] := by
          have : ds.length = 0 := by simp at hl; omega
          exact List.eq_nil_of_length_eq_zero this
        subst hd
        have hi : i = 5 := Fin.ext (by show i.val = 5; omega)
        subst hi
        have hf : fillAt 5 s.buf [b] = s.buf.set 5 b := by
          rw [← fillAt_nil 6 (s.buf.set 5 b)]; exact (fillAt_cons 5 s.buf b []).symm
        rw [hab]
        simp [drained, drainEvents, Prim.answer, ht', hf]

/-- `MemRead` from its first label, run to its return (R103): for every answer of the Transport, its primitives are recorded,
the drained bytes are in BUF, and the caller goes on with its first failing check's status, nothing else changed. -/
theorem read_run {s : State} {c : Command} {reg : Byte} {here : RPos → Label} {ret : Code → Label}
    (hn : s.noReset) (hs : s.seq = .run c (here .r1))
    (hp : ∀ r, program c s.params (here r) = some (memRead s.params reg here ret r))
    (a c1 e g : Byte) (ds : List (Byte × Byte)) (hds : ds.length = 6) (rest : List BusReply)
    (ht : s.transport = (readReplies a c1 e g ds).take (readEvents s.params reg c1 e g ds).length ++ rest) (n : Nat) :
    stepN (n + 2 * (readEvents s.params reg c1 e g ds).length) s = stepN n { s with
      seq := .run c (ret (readCode s.params c1 e g ds))
      buf := fillBuf s.buf (readBytes s.params c1 e g ds)
      transport := s.transport.drop (readEvents s.params reg c1 e g ds).length
      trace := s.trace ++ readEvents s.params reg c1 e g ds } := by
  by_cases h1 : c1 = 1
  · subst h1
    by_cases h3 : closeFails s.params e = true
    · have he : readEvents s.params reg 1 e g ds = [.prim (.begin s.params.devAddr) (some .ack),
        .prim (.xwrite [reg]) (some (.count 1)), .prim (.close .hold) (some (.status (e.setWidth 3)))] := by
        simp [readEvents, h3]
      have hc : readCode s.params 1 e g ds = codeOfStatus (statusOf e) := by simp [readCode, h3, codeOfStatus, statusOf]
      have hb : readBytes s.params 1 e g ds = [] := by simp [readBytes, h3]
      rw [he] at ht ⊢
      rw [hc, hb, ← fillAt_zero, fillAt_nil]
      have ht' : s.transport = .answers a :: .answers 1 :: .answers e :: rest := by simpa [readReplies, answers] using ht
      rw [show n + 2 * List.length _ = n + 2 + 2 + 2 from rfl]
      refine Eq.trans (stepN_bus _ hn hs rfl (hp .r1) rfl ht' rfl) ?_
      refine Eq.trans (stepN_bus _ (by exact hn) rfl rfl (hp .r2) rfl rfl rfl) ?_
      refine Eq.trans (stepN_bus _ (by exact hn) rfl rfl (hp .r3) rfl rfl rfl) ?_
      have hcond : (s.params.readChecksAddrClose && codeOfStatus (statusOf e) != success) = true := by
        rw [← h3]; unfold closeFails codeOfStatus statusOf success
        generalize BitVec.setWidth 3 e = x
        congr 1
        revert x; decide
      simp only [hcond, if_true]
      simp [ht', Prim.answer, statusOf]
    · have h3' : closeFails s.params e = false := by simpa using h3
      have hcond : (s.params.readChecksAddrClose && codeOfStatus (statusOf e) != success) = false := by
        rw [← h3']; unfold closeFails codeOfStatus statusOf success
        generalize BitVec.setWidth 3 e = x
        congr 1
        revert x; decide
      by_cases hg : g = 6
      · subst hg
        have he : readEvents s.params reg 1 e 6 ds = .prim (.begin s.params.devAddr) (some .ack) ::
            .prim (.xwrite [reg]) (some (.count 1)) :: .prim (.close .hold) (some (.status (e.setWidth 3))) ::
            .prim (.request s.params.devAddr 6) (some (.count 6)) :: drainEvents ds := by
          simp [readEvents, h3']
        have hc : readCode s.params 1 e 6 ds = if (drained ds).length < 6 then 7 else 0 := by simp [readCode, h3']
        have hb : readBytes s.params 1 e 6 ds = drained ds := by simp [readBytes, h3']
        rw [he] at ht ⊢
        rw [hc, hb, ← fillAt_zero]
        have ht' : s.transport = .answers a :: .answers 1 :: .answers e :: .answers 6 ::
            ((answers (ds.flatMap fun d => [d.1, d.2])).take (drainEvents ds).length ++ rest) :=
            by simpa [readReplies, answers] using ht
        simp only [List.length_cons]
        rw [show n + 2 * ((drainEvents ds).length + 1 + 1 + 1 + 1) = n + 2 * (drainEvents ds).length + 2 + 2 + 2 + 2 from by omega]
        refine Eq.trans (stepN_bus _ hn hs rfl (hp .r1) rfl ht' rfl) ?_
        refine Eq.trans (stepN_bus _ (by exact hn) rfl rfl (hp .r2) rfl rfl rfl) ?_
        refine Eq.trans (stepN_bus _ (by exact hn) rfl rfl (hp .r3) rfl rfl rfl) ?_
        simp only [hcond, Bool.false_eq_true, if_false]
        refine Eq.trans (stepN_bus _ (by exact hn) rfl rfl (hp .r4) rfl rfl rfl) ?_
        refine Eq.trans (drain_run hp ds 0 (by rfl) (by exact hn) rfl (by simpa using hds) rest rfl n) ?_
        simp [ht', Prim.answer, statusOf]
      · have hg' : ¬ g = 6#8 := hg
        have he : readEvents s.params reg 1 e g ds = [.prim (.begin s.params.devAddr) (some .ack),
            .prim (.xwrite [reg]) (some (.count 1)), .prim (.close .hold) (some (.status (e.setWidth 3))),
            .prim (.request s.params.devAddr 6) (some (.count g))] := by
          simp [readEvents, h3', hg']
        have hc : readCode s.params 1 e g ds = 7 := by simp [readCode, h3', hg']
        have hb : readBytes s.params 1 e g ds = [] := by simp [readBytes, h3', hg']
        rw [he] at ht ⊢
        rw [hc, hb, ← fillAt_zero, fillAt_nil]
        have ht' : s.transport = .answers a :: .answers 1 :: .answers e :: .answers g :: rest :=
            by simpa [readReplies, answers] using ht
        rw [show n + 2 * List.length _ = n + 2 + 2 + 2 + 2 from rfl]
        refine Eq.trans (stepN_bus _ hn hs rfl (hp .r1) rfl ht' rfl) ?_
        refine Eq.trans (stepN_bus _ (by exact hn) rfl rfl (hp .r2) rfl rfl rfl) ?_
        refine Eq.trans (stepN_bus _ (by exact hn) rfl rfl (hp .r3) rfl rfl rfl) ?_
        simp only [hcond, Bool.false_eq_true, if_false]
        refine Eq.trans (stepN_bus _ (by exact hn) rfl rfl (hp .r4) rfl rfl rfl) ?_
        have hga : countAccepted g 6 = false := by
          simp only [countAccepted, beq_eq_false_iff_ne]; intro h; exact hg (BitVec.eq_of_toNat_eq (by simpa using h))
        simp [ht', Prim.answer, statusOf, hga]
  · have h1' : ¬ c1 = 1#8 := h1
    have hga : countAccepted c1 1 = false := by
      simp only [countAccepted, beq_eq_false_iff_ne]; intro h; exact h1 (BitVec.eq_of_toNat_eq (by simpa using h))
    have he : readEvents s.params reg c1 e g ds = [.prim (.begin s.params.devAddr) (some .ack),
        .prim (.xwrite [reg]) (some (.count c1))] := by
      simp [readEvents, h1']
    have hc : readCode s.params c1 e g ds = 6 := by simp [readCode, h1']
    have hb : readBytes s.params c1 e g ds = [] := by simp [readBytes, h1']
    rw [he] at ht ⊢
    rw [hc, hb, ← fillAt_zero, fillAt_nil]
    have ht' : s.transport = .answers a :: .answers c1 :: rest := by simpa [readReplies, answers] using ht
    rw [show n + 2 * List.length _ = n + 2 + 2 from rfl]
    refine Eq.trans (stepN_bus _ hn hs rfl (hp .r1) rfl ht' rfl) ?_
    refine Eq.trans (stepN_bus _ (by exact hn) rfl rfl (hp .r2) rfl rfl rfl) ?_
    simp [ht', Prim.answer, hga]

/-- Six drained bytes are the ones the axis values are made of. -/
theorem axesOf_fill (b : Vector Byte 6) (bytes : List Byte) (h : 6 ≤ bytes.length) : axes (fillBuf b bytes) = axesOf bytes := by
  have hj : ∀ j (hj : j < 6), (fillBuf b bytes)[j] = bytes.getD j 0 := by
    intro j hj
    simp only [fillBuf, Vector.getElem_ofFn]
    rw [List.getD_eq_getElem _ _ (by omega), List.getD_eq_getElem _ _ (by omega)]
  simp [axes, axesOf, hj]

/-- A read that returns Success has drained six bytes. -/
theorem readCode_zero {P : Params} {c e g : Byte} {ds : List (Byte × Byte)} (h : readCode P c e g ds = 0) :
    6 ≤ (readBytes P c e g ds).length := by
  unfold readCode at h
  unfold readBytes
  split at h
  · simp at h
  · rename_i h1
    rw [if_neg h1]
    split at h
    · rename_i h2
      exfalso
      unfold closeFails at h2
      generalize BitVec.setWidth 3 e = x at *
      rcases hP : P.readChecksAddrClose with _ | _ <;> simp [hP] at h2
      revert h h2; revert x; decide
    · rename_i h2
      rw [if_neg h2]
      split at h
      · simp at h
      · rename_i h3
        rw [if_neg h3]
        split at h
        · simp at h
        · omega

end Sys2Proof.Machine
end

