-- ==== Sys2Proof/Certificates/Slice0/Obligations.lean ====
section
/-! DEFINITION. The statements about the machine. Each docstring names the rule of spec/ it formalises; where a statement
rests on a choice of the model, the log entry is named. -/

open Sys2Proof Sys2Proof.Machine

/-! ### Command words -/

/-- Words of spec/95 2.1 decode to the commands they stand for, and the illegal ones to ILLEGAL. -/
def Obligations.DecodesTheWordsOfTheSpec : Prop :=
  decode 0x0105 = .instr (.setmode 0x05) ∧ decode 0x01FF = .instr (.setmode 0xFF) ∧ decode 0x0200 = .instr .getmode ∧
    decode 0x0300 = .instr .getsens ∧ decode 0x0400 = .instr .orient ∧ decode 0x0505 = .instr (.init 0x05) ∧
    decode 0x0603 = .instr (.setint 0x03) ∧ decode 0x0700 = .instr .clrlatch ∧ decode 0x0000 = .illegal ∧
    decode 0x0201 = .illegal ∧ decode 0x0480 = .illegal ∧ decode 0x0800 = .illegal ∧ decode 0x1105 = .illegal

/-- R73, R77: a word decodes to a command exactly when it is that command's encoding, for every operand: no bit is dropped
and no other word aliases it. -/
def Obligations.DecodeInvertsEncode : Prop :=
  ∀ (w : Word) (i : Instr), decodeWord w = .ok i ↔ w = encode i

/-- R74: exactly one row matches a legal word, and the command is that row's with the operand byte as written; no row
matches an illegal word. -/
def Obligations.LegalWordsSelectOneRow : Prop :=
  (∀ (w : Word) (i : Instr), decode w = .instr i →
      ∃ r, opcodeMap.filter (fun r => r.selects w) = [r] ∧ i = Mnemonic.instr r.mnemonic (immField w)) ∧
    ∀ w : Word, decode w = .illegal → opcodeMap.filter (fun r => r.selects w) = []

/-- R75: the illegal words, by their ranges. -/
def Obligations.IllegalWordsAreTheReservedOnes : Prop :=
  ∀ w : Word, decode w = .illegal ↔
    0x1000 ≤ w.toNat ∨ w.toNat ≤ 0x00FF ∨ (0x0800 ≤ w.toNat ∧ w.toNat ≤ 0x0FFF) ∨
      (0x0201 ≤ w.toNat ∧ w.toNat ≤ 0x02FF) ∨ (0x0301 ≤ w.toNat ∧ w.toNat ≤ 0x03FF) ∨
      (0x0401 ≤ w.toNat ∧ w.toNat ≤ 0x04FF) ∨ (0x0701 ≤ w.toNat ∧ w.toNat ≤ 0x07FF)

/-- R77, R78: the words of the lines, `(OP << 8) | imm`, as numbers: one operand, no operand, and the pseudo-instruction
`m, s`, which gives the word of `m | s`; and the lines that are errors. That `m` and `s` may be any two integers 0..255, and
not only symbols of R78, is the model's choice (log 14). -/
def Obligations.AssemblerEncodesLines : Prop :=
  (∀ v : Nat, v < 256 →
      assemble ⟨.setmode, [v]⟩ = .ok (BitVec.ofNat 16 (0x0100 + v)) ∧
      assemble ⟨.init, [v]⟩ = .ok (BitVec.ofNat 16 (0x0500 + v)) ∧
      assemble ⟨.setint, [v]⟩ = .ok (BitVec.ofNat 16 (0x0600 + v))) ∧
    (assemble ⟨.getmode, []⟩ = .ok 0x0200 ∧ assemble ⟨.getsens, []⟩ = .ok 0x0300 ∧
      assemble ⟨.orient, []⟩ = .ok 0x0400 ∧ assemble ⟨.clrlatch, []⟩ = .ok 0x0700) ∧
    (∀ m v : Nat, m < 256 → v < 256 →
      assemble ⟨.setmode, [m, v]⟩ = .ok (BitVec.ofNat 16 (0x0100 + (m ||| v))) ∧
      assemble ⟨.init, [m, v]⟩ = .ok (BitVec.ofNat 16 (0x0500 + (m ||| v)))) ∧
    (∀ l : Line, (∃ v ∈ l.operands, 256 ≤ v) → ∃ e, assemble l = .error e) ∧
    (∀ l : Line, l.mnemonic = .getmode ∨ l.mnemonic = .getsens ∨ l.mnemonic = .orient ∨ l.mnemonic = .clrlatch →
      l.operands ≠ [] → ∃ e, assemble l = .error e) ∧
    (∀ vs : List Nat, vs.length ≠ 1 → ∃ e, assemble ⟨.setint, vs⟩ = .error e) ∧
    (∀ vs : List Nat, vs.length ≠ 1 → vs.length ≠ 2 →
      (∃ e, assemble ⟨.setmode, vs⟩ = .error e) ∧ ∃ e, assemble ⟨.init, vs⟩ = .error e) ∧
    ∀ l : Line, l.wf = true → ∃ w i, assemble l = .ok w ∧ decode w = .instr i

/-! ### The machine's step -/

/-- R42: an idle block takes the Host's word, with READY falling in the same step; a busy one leaves it with the Host and
goes on with its own command. -/
def Obligations.IssueIsTakenOnlyWhenReady : Prop :=
  ∀ (s : State) (w : Word) (rest : List HostAct), s.host = .issue w :: rest →
    (s.ready = true →
      step s = .next { s with
        host := rest, seq := .run (decode w) (startLabel (decode w)), trace := s.trace ++ [.issue w] }) ∧
    (s.ready = false → ∀ t, step s = .next t →
      t.host = s.host ∧ (t.seq.command = s.seq.command ∨ t.ready = true))

/-- A step of a machine whose sequencer holds a command, ILLEGAL included, is that command's meaning, after the Host's reset,
if one is its next act and not yet due, has come one step nearer; an idle block only sees it come nearer; and a word is
accepted as the command it decodes to, which the next step runs. The countdown of a reset is the model's choice (log 9). -/
def Obligations.StepRunsTheDecodedCommand : Prop :=
  (∀ (s : State) (i : Instr), s.seq.command = some (.instr i) → s.noReset → step s = exec i s) ∧
    (∀ s : State, s.seq.command = some .illegal → s.noReset → step s = execIllegal s) ∧
    (∀ (s : State) (n : Nat) (rest : List HostAct), s.host = .reset (n + 1) :: rest →
      (∀ i, s.seq.command = some (.instr i) → step s = exec i { s with host := .reset n :: rest }) ∧
      (s.seq.command = some .illegal → step s = execIllegal { s with host := .reset n :: rest }) ∧
      (s.seq = .idle → step s = .next { s with host := .reset n :: rest })) ∧
    ∀ (s : State) (w : Word) (rest : List HostAct), s.ready = true → s.host = .issue w :: rest →
      (∀ i, decodeWord w = .ok i →
        ∃ t, step s = .next t ∧ t.seq.command = some (.instr i) ∧ (t.noReset → step t = exec i t)) ∧
      ((∀ i, decodeWord w ≠ .ok i) →
        ∃ t, step s = .next t ∧ t.seq.command = some .illegal ∧ (t.noReset → step t = execIllegal t))

/-- R240, R241, R207: a reset that is due takes the step's place whatever else could happen in it. It abandons the running
command and its pending answer, sets the registers, starts INIT(INIT_CONFIG) and records nothing new. What R44 leaves open is
only bounded here. That the discarded answer is the next reply of the outstanding primitive's agent is log 7, and that the
trace keeps the abandoned primitive with no answer is log 8. -/
def Obligations.ResetRestartsFromAnyState : Prop :=
  ∀ (s : State) (rest : List HostAct), s.host = .reset 0 :: rest →
    ∃ t, step s = .next t ∧ t.seq = .run (.instr (.init s.params.initConfig)) (.mode .w1) ∧ t.ready = false ∧
      t.status = 0 ∧ t.resByte = 0 ∧ t.resX = 0 ∧ t.resY = 0 ∧ t.resZ = 0 ∧ t.sensCache &&& 0xF3 = 0 ∧
      t.calI ≤ s.params.calIterations ∧ t.events = s.events ∧ t.params = s.params ∧ t.host = rest ∧
      (s.seq.outstanding = none → t.transport = s.transport ∧ t.timer = s.timer) ∧
      ∀ q, s.seq.outstanding = some q →
        (q.toTimer = false → t.transport = s.transport.tail ∧ t.timer = s.timer) ∧
        (q.toTimer = true → t.transport = s.transport ∧ t.timer = s.timer.tail)

/-- R44: the values reset gives the sequencer and the result registers, and the range of SENS_CACHE and CAL_I. -/
def Obligations.ResetStateHoldsTheStatedValues : Prop :=
  State.reset.seq = .run (.instr (.init 0x00)) (.mode .w1) ∧ State.reset.ready = false ∧ State.reset.status = 0 ∧
    State.reset.resByte = 0 ∧ State.reset.resX = 0 ∧ State.reset.resY = 0 ∧ State.reset.resZ = 0 ∧
    State.reset.sensCache &&& 0xF3 = 0 ∧ State.reset.calI ≤ 3 ∧ State.reset.events = []

/-- The invariant holds right after reset. -/
def Obligations.ResetStateMeetsTheInvariant : Prop := Inv State.reset

/-- Every step keeps the invariant: SEQ consistent, SENS_CACHE legal, STATUS never 8 to 14, CAL_I in its range, the
calibration target and offsets those of the registers. The locals that stand with a label are log 2. -/
def Obligations.StepKeepsTheInvariant : Prop :=
  ∀ s t : State, Inv s → step s = .next t → Inv t

/-- R204, R38: the block has no traps and is defined for every answer: no step stops, and neither does the meaning of the
command that runs. That a block with no step answers the same state is log 12. -/
def Obligations.NoStepStops : Prop :=
  ∀ s : State, Inv s →
    (∃ t, step s = .next t) ∧ ∀ i, s.seq.command = some (.instr i) → ∃ t, exec i s = .next t

/-- R39: a primitive that is issued puts SEQ in Wait with nothing else changed; while its agent does not answer, the step
changes nothing (as a next state: log 12); an answer is recorded and the same command goes on. -/
def Obligations.IssuedPrimitiveHoldsForItsAnswer : Prop :=
  (∀ (s : State) (c : Command) (p : Label) (q : Prim), s.noReset → s.seq = .run c p →
      (program c s.params p).bind Act.primitive = some q → step s = .next { s with seq := .wait c p q }) ∧
    ∀ (s : State) (c : Command) (p : Label) (q : Prim), Inv s → s.noReset → s.seq = .wait c p q →
      (q.toTimer = false → (s.transport = [] ∨ ∃ rest, s.transport = .never :: rest) → step s = .next s) ∧
      (q.toTimer = true → (s.timer = [] ∨ ∃ rest, s.timer = .never :: rest) → step s = .next s) ∧
      (q.toTimer = false → ∀ v rest, s.transport = .answers v :: rest →
        ∃ t p', step s = .next t ∧ t.seq = .run c p' ∧ t.transport = rest ∧
          t.trace = s.trace ++ [.prim q (some (q.answer v))]) ∧
      (q.toTimer = true → ∀ rest, s.timer = .elapsed :: rest →
        ∃ t p', step s = .next t ∧ t.seq = .run c p' ∧ t.timer = rest ∧ t.trace = s.trace ++ [.prim q (some .ack)])

/-- The model's step for an idle block to which the Host offers nothing more. The spec gives the block no step there (R253:
the run has ended); that the model's step then answers the same state is log 12 (DEDUCED). -/
def Obligations.IdleBlockStaysIdle : Prop :=
  ∀ (n : Nat) (s : State), s.ready = true → s.host = [] → stepN n s = .next s

/-- R7, R41: the parameters never change and the trace only grows, across a reset too (log 8). -/
def Obligations.TraceOnlyGrows : Prop :=
  ∀ (n : Nat) (s t : State), stepN n s = .next t →
    t.params = s.params ∧ ∃ es, t.trace = s.trace ++ es

/-! ### Who writes a register -/

/-- R43: no result register changes before a command's completion, and the completion writes STATUS, makes READY rise and is
recorded, in one step. -/
def Obligations.ResultsChangeOnlyAtCompletion : Prop :=
  ∀ (c : Command) (s t : State), execCommand c s = .next t →
    (t.ready = false → t.status = s.status ∧ t.resByte = s.resByte ∧ t.resX = s.resX ∧ t.resY = s.resY ∧
      t.resZ = s.resZ) ∧
    (t.ready = true → (∃ p, s.seq = .run c p) ∧ t.trace = s.trace ++ [.finish t.status])

/-- R24, R25, R121, R127: outside a reset the caches change only together, where a SETMODE procedure whose write returned
Success ends, to `mask & 0x03` and `mask & 0x0C`. -/
def Obligations.CachesChangeOnlyOnSuccess : Prop :=
  ∀ s t : State, (∀ rest, s.host ≠ .reset 0 :: rest) → step s = .next t →
    (t.modeCache ≠ s.modeCache ∨ t.sensCache ≠ s.sensCache) →
    ∃ mask : Byte, (s.seq = .run (.instr (.setmode mask)) (.finish 0) ∨ s.seq = .run (.instr (.init mask)) (.modeRet 0)) ∧
      t.modeCache.toNat = mask.toNat % 4 ∧ t.sensCache = mask &&& 0x0C

/-- R27, R28: outside a reset RES_BYTE is written only by GETMODE and GETSENS, and RES_X, RES_Y and RES_Z only in the
completion of an ORIENT whose read returned Success, all three from BUF. -/
def Obligations.ResultRegistersHaveTheirWriters : Prop :=
  ∀ s t : State, (∀ rest, s.host ≠ .reset 0 :: rest) → step s = .next t →
    (t.resByte ≠ s.resByte → s.seq.command = some (.instr .getmode) ∨ s.seq.command = some (.instr .getsens)) ∧
    (t.resX ≠ s.resX ∨ t.resY ≠ s.resY ∨ t.resZ ≠ s.resZ →
      s.seq = .run (.instr .orient) (.finish 0) ∧ t.resX = recon s.buf[0] s.buf[1] ∧
        t.resY = recon s.buf[2] s.buf[3] ∧ t.resZ = recon s.buf[4] s.buf[5])

/-- R29, R163: outside a reset CAL_X, CAL_Y and CAL_Z are written only where a calibration read that returned Success ends,
all three from BUF. -/
def Obligations.CalibrationRegistersHaveOneWriter : Prop :=
  ∀ s t : State, (∀ rest, s.host ≠ .reset 0 :: rest) → step s = .next t →
    (t.calX ≠ s.calX ∨ t.calY ≠ s.calY ∨ t.calZ ≠ s.calZ) →
    ∃ (cfg : Byte) (st : Code), s.seq = .run (.instr (.init cfg)) (.c1Ret st 0) ∧ t.calX = recon s.buf[0] s.buf[1] ∧
      t.calY = recon s.buf[2] s.buf[3] ∧ t.calZ = recon s.buf[4] s.buf[5]

/-- What each command leaves unchanged in every step of its own: all but the registers its rule names (R122, R124, R125,
R142, R160, R180, R181, R205), SEQ, STATUS, the trace and the replies it has taken. -/
def Obligations.FrameOfEachCommand : Prop :=
  ∀ s t : State,
    (∀ mask, exec (.setint mask) s = .next t →
      t = { s with seq := t.seq, status := t.status, trace := t.trace, transport := t.transport }) ∧
    (exec .clrlatch s = .next t →
      t = { s with seq := t.seq, status := t.status, trace := t.trace, transport := t.transport }) ∧
    (execIllegal s = .next t → t = { s with seq := t.seq, status := t.status, trace := t.trace }) ∧
    (∀ mask, exec (.setmode mask) s = .next t →
      t = { s with
        seq := t.seq, status := t.status, trace := t.trace, transport := t.transport, modeCache := t.modeCache,
        sensCache := t.sensCache }) ∧
    (exec .getmode s = .next t →
      t = { s with seq := t.seq, status := t.status, trace := t.trace, resByte := t.resByte }) ∧
    (exec .getsens s = .next t →
      t = { s with seq := t.seq, status := t.status, trace := t.trace, resByte := t.resByte }) ∧
    (exec .orient s = .next t →
      t = { s with
        seq := t.seq, status := t.status, trace := t.trace, transport := t.transport, resX := t.resX, resY := t.resY,
        resZ := t.resZ, buf := t.buf }) ∧
    ∀ cfg, exec (.init cfg) s = .next t →
      t = { s with
        seq := t.seq, status := t.status, trace := t.trace, transport := t.transport, timer := t.timer,
        modeCache := t.modeCache, sensCache := t.sensCache, calX := t.calX, calY := t.calY, calZ := t.calZ,
        calT := t.calT, calI := t.calI, buf := t.buf }

/-! ### Completions -/

/-- R124: GETMODE reports the cached mode, zero-extended, with status Success and no primitive. -/
def Obligations.GetmodeReportsTheMode : Prop :=
  decode 0x0200 = .instr .getmode ∧ startLabel (.instr .getmode) = .start ∧
  ∀ s : State, s.seq = .run (.instr .getmode) .start →
    exec .getmode s = .next { s with
      seq := .idle, resByte := s.modeCache.setWidth 8, status := 0, trace := s.trace ++ [.finish 0] }

/-- R125, R126: GETSENS reports the scale byte of the cached sensitivity, 0x01 for a value that has none, with status
Success and no primitive. -/
def Obligations.GetsensReportsTheScale : Prop :=
  decode 0x0300 = .instr .getsens ∧ startLabel (.instr .getsens) = .start ∧
  ∀ s : State, s.seq = .run (.instr .getsens) .start →
    exec .getsens s = .next { s with
      seq := .idle, status := 0, trace := s.trace ++ [.finish 0]
      resByte :=
        if s.sensCache = 0x00 then 0x10 else if s.sensCache = 0x04 then 0x40
        else if s.sensCache = 0x08 then 0x20 else 0x01 }

/-- R121, R122, R43: SETMODE's completion writes STATUS and, only on Success, both caches, in one step. -/
def Obligations.SetmodeCompletes : Prop :=
  ∀ (s : State) (mask : Byte) (code : Code), s.seq = .run (.instr (.setmode mask)) (.finish code) →
    exec (.setmode mask) s = .next { s with
      seq := .idle, status := code, trace := s.trace ++ [.finish code]
      modeCache := if code = 0 then mask.extractLsb' 0 2 else s.modeCache
      sensCache := if code = 0 then mask &&& 0x0C else s.sensCache }

/-- R142, R43: ORIENT's completion writes STATUS and, only on Success, the three axis values of the bytes read, in one
step. -/
def Obligations.OrientCompletes : Prop :=
  ∀ (s : State) (code : Code), s.seq = .run (.instr .orient) (.finish code) →
    exec .orient s = .next { s with
      seq := .idle, status := code, trace := s.trace ++ [.finish code]
      resX := if code = 0 then recon s.buf[0] s.buf[1] else s.resX
      resY := if code = 0 then recon s.buf[2] s.buf[3] else s.resY
      resZ := if code = 0 then recon s.buf[4] s.buf[5] else s.resZ }

/-- R160, R180, R181: INIT, SETINT and CLRLATCH complete with the status they carry and write no other register. -/
def Obligations.InitSetintAndClrlatchComplete : Prop :=
  (∀ (s : State) (cfg : Byte) (code : Code), s.seq = .run (.instr (.init cfg)) (.finish code) →
      exec (.init cfg) s = .next { s with seq := .idle, status := code, trace := s.trace ++ [.finish code] }) ∧
    (∀ (s : State) (mask : Byte) (code : Code), s.seq = .run (.instr (.setint mask)) (.finish code) →
      exec (.setint mask) s = .next { s with seq := .idle, status := code, trace := s.trace ++ [.finish code] }) ∧
    ∀ (s : State) (code : Code), s.seq = .run (.instr .clrlatch) (.finish code) →
      exec .clrlatch s = .next { s with seq := .idle, status := code, trace := s.trace ++ [.finish code] }

/-- R205: an illegal word is accepted like any other and completes in its first step with IllegalCommand, no primitive and
no other change. -/
def Obligations.IllegalWordFinishesWithIllegalCommand : Prop :=
  ∀ (s : State) (w : Word) (rest : List HostAct), s.seq = .idle → s.host = .issue w :: rest →
    (∀ n more, rest ≠ .reset n :: more) → decode w = .illegal →
    stepN 2 s =
      .next { s with host := rest, status := 0xF, trace := s.trace ++ [.issue w, .finish 0xF] }

/-- R120, R123: the field codes; the codec gives back every mode and every named sensitivity, and a SETMODE with an encoded
operand that succeeds leaves them in the caches. -/
def Obligations.SetmodeStoresTheEncodedFields : Prop :=
  (modeCode .standby = 0b00 ∧ modeCode .measurement = 0b01 ∧ modeCode .levelDetection = 0b10 ∧
    modeCode .pulseDetection = 0b11) ∧
  (sensCode .g8 = 0x00 ∧ sensCode .g2 = 0x04 ∧ sensCode .g4 = 0x08) ∧
  ∀ (m : Mode) (v : Sensitivity),
    (encodeConfig (modeCode m) (sensCode v)).toNat = (modeCode m).toNat + (sensCode v).toNat ∧
    decodeConfig (encodeConfig (modeCode m) (sensCode v)) = (modeCode m, sensCode v) ∧
    ∀ s : State, s.seq = .run (.instr (.setmode (encodeConfig (modeCode m) (sensCode v)))) (.finish 0) →
      ∃ t, exec (.setmode (encodeConfig (modeCode m) (sensCode v))) s = .next t ∧ t.modeCache = modeCode m ∧
        t.sensCache = sensCode v

/-! ### Commands from start to completion, for every answer of the Transport

The Transport's script is only asked to answer the primitives that are issued, so it may end, or hold for ever, right after
the failing check. Replies are raw bytes (log 3), and the number of steps is the model's (log 1, log 15). -/

/-- R102, R122: SETMODE from its start, whatever the Transport answers: the write's primitives, its first failing check as
the status, and the caches on Success only. -/
def Obligations.SetmodeRunsToCompletion : Prop :=
  ∀ (s : State) (mask a c1 c2 e : Byte) (rest : List BusReply),
    s.seq = .run (.instr (.setmode mask)) (startLabel (.instr (.setmode mask))) → s.noReset →
    let es := writeEvents s.params s.params.regMctl [mask] c1 c2 e
    s.transport = (answers [a, c1, c2, e]).take es.length ++ rest →
    let code := writeCode 1 c1 c2 e
    stepN (2 * es.length + 1) s = .next { s with
      seq := .idle, status := code, transport := s.transport.drop es.length, trace := s.trace ++ es ++ [.finish code]
      modeCache := if code = 0 then mask.extractLsb' 0 2 else s.modeCache
      sensCache := if code = 0 then mask &&& 0x0C else s.sensCache }

/-- R102, R180: SETINT from its start, whatever the Transport answers. -/
def Obligations.SetintRunsToCompletion : Prop :=
  ∀ (s : State) (mask a c1 c2 e : Byte) (rest : List BusReply),
    s.seq = .run (.instr (.setint mask)) (startLabel (.instr (.setint mask))) → s.noReset →
    let es := writeEvents s.params s.params.regIntsrc [mask] c1 c2 e
    s.transport = (answers [a, c1, c2, e]).take es.length ++ rest →
    let code := writeCode 1 c1 c2 e
    stepN (2 * es.length + 1) s = .next { s with
      seq := .idle, status := code, transport := s.transport.drop es.length, trace := s.trace ++ es ++ [.finish code] }

/-- R181: CLRLATCH from its start: a clear write that fails ends the command with its status and no primitive of the second
write; a clear write that succeeds is followed by the enable write, whose status the command finishes with. -/
def Obligations.ClrlatchRunsToCompletion : Prop :=
  ∀ (s : State) (a c1 c2 e : Byte), s.seq = .run (.instr .clrlatch) (startLabel (.instr .clrlatch)) → s.noReset →
    let es := writeEvents s.params s.params.regLatch [s.params.latchClearValue] c1 c2 e
    let code := writeCode 1 c1 c2 e
    (∀ rest, s.transport = (answers [a, c1, c2, e]).take es.length ++ rest → code ≠ 0 →
      stepN (2 * es.length + 1) s = .next { s with
        seq := .idle, status := code, transport := s.transport.drop es.length
        trace := s.trace ++ es ++ [.finish code] }) ∧
    ∀ (a' d1 d2 e' : Byte) (rest : List BusReply),
      let es' := writeEvents s.params s.params.regLatch [s.params.latchEnableValue] d1 d2 e'
      s.transport = answers [a, c1, c2, e] ++ (answers [a', d1, d2, e']).take es'.length ++ rest → code = 0 →
      let code' := writeCode 1 d1 d2 e'
      stepN (8 + 2 * es'.length + 1) s = .next { s with
        seq := .idle, status := code', transport := s.transport.drop (4 + es'.length)
        trace := s.trace ++ es ++ es' ++ [.finish code'] }

/-- R103, R104, R107, R108, R142: ORIENT from its start, whatever the Transport answers: the read's primitives, its first
failing check as the status, the drained bytes in BUF, and the three axis values on Success only. -/
def Obligations.OrientRunsToCompletion : Prop :=
  ∀ (s : State) (a c e g : Byte) (ds : List (Byte × Byte)) (rest : List BusReply),
    s.seq = .run (.instr .orient) (startLabel (.instr .orient)) → s.noReset → ds.length = 6 →
    let es := readEvents s.params s.params.regOutBase c e g ds
    s.transport = (readReplies a c e g ds).take es.length ++ rest →
    let code := readCode s.params c e g ds
    let bytes := readBytes s.params c e g ds
    stepN (2 * es.length + 1) s = .next { s with
      seq := .idle, status := code, transport := s.transport.drop es.length, trace := s.trace ++ es ++ [.finish code]
      buf := fillBuf s.buf bytes
      resX := if code = 0 then (axesOf bytes).1 else s.resX
      resY := if code = 0 then (axesOf bytes).2.1 else s.resY
      resZ := if code = 0 then (axesOf bytes).2.2 else s.resZ }

/-- R160, R161, R170: INIT's mode phase, whatever the Transport answers: the write, the caches on Success only, and then, in
either case, the target and the start of the loop. -/
def Obligations.InitConfiguresThenCalibrates : Prop :=
  ∀ (s : State) (cfg a c1 c2 e : Byte) (rest : List BusReply),
    s.seq = .run (.instr (.init cfg)) (startLabel (.instr (.init cfg))) → s.noReset →
    let es := writeEvents s.params s.params.regMctl [cfg] c1 c2 e
    s.transport = (answers [a, c1, c2, e]).take es.length ++ rest →
    let code := writeCode 1 c1 c2 e
    let sens := if code = 0 then cfg &&& 0x0C else s.sensCache
    stepN (2 * es.length + 2) s = .next { s with
      seq := .run (.instr (.init cfg)) (.loop code), transport := s.transport.drop es.length, trace := s.trace ++ es
      modeCache := if code = 0 then cfg.extractLsb' 0 2 else s.modeCache
      sensCache := sens, calT := decodeScale sens, calI := 0 }

/-- R163–R166: one iteration of the calibration loop, whatever the Transport answers: the read, the calibration registers
kept if it fails, the offsets from them, the offset write whatever the read did, and the WAIT whatever the write did. -/
def Obligations.CalibrationIterationRuns : Prop :=
  ∀ (s : State) (cfg a c e g b c1 c2 f : Byte) (st : Code) (ds : List (Byte × Byte)) (rest : List BusReply)
    (later : List TimerReply),
    s.seq = .run (.instr (.init cfg)) (.loop st) → s.noReset → s.calI < s.params.calIterations → ds.length = 6 →
    let es := readEvents s.params s.params.regOutBase c e g ds
    let bytes := readBytes s.params c e g ds
    let cal := calAfter (s.calX, s.calY, s.calZ) (readCode s.params c e g ds) bytes
    let fs := writeEvents s.params s.params.regOffBase (offsetsOf cal s.calT).burst c1 c2 f
    s.transport = (readReplies a c e g ds).take es.length ++ (answers [b, c1, c2, f]).take fs.length ++ rest →
    s.timer = .elapsed :: later →
    stepN (2 * es.length + 2 * fs.length + 5) s = .next { s with
      seq := .run (.instr (.init cfg)) (.loop st), calI := s.calI + 1, buf := fillBuf s.buf bytes
      calX := cal.1, calY := cal.2.1, calZ := cal.2.2
      transport := s.transport.drop (es.length + fs.length), timer := later
      trace := s.trace ++ es ++ fs ++ [.prim (.wait s.params.calDelayMs) (some .ack)] }

/-- R160–R166: an INIT that is accepted throughout configures the mode, then, once per reading, writes the offsets of that
reading and waits; it ends with Success, the caches of its operand, the last reading in CAL_X, CAL_Y and CAL_Z, and no
result register but STATUS written. That CAL_I ends at CAL_ITERATIONS is log 15 (DEDUCED). -/
def Obligations.AcceptedInitCalibratesEveryReading : Prop :=
  ∀ (s : State) (cfg : Byte) (readings : List (Vector Byte 6)) (rest : List BusReply) (later : List TimerReply),
    s.seq = .run (.instr (.init cfg)) (startLabel (.instr (.init cfg))) → s.noReset →
    readings.length = s.params.calIterations →
    s.transport = writeOk 1 ++ readings.flatMap (fun b => readOk b ++ writeOk 6) ++ rest →
    s.timer = List.replicate s.params.calIterations .elapsed ++ later →
    let t := decodeScale (cfg &&& 0x0C)
    let cal := (readings.getLast?.map fun b => axesOf b.toList).getD (s.calX, s.calY, s.calZ)
    ∃ n, stepN n s = .next { s with
      seq := .idle, status := 0, modeCache := cfg.extractLsb' 0 2, sensCache := cfg &&& 0x0C
      calX := cal.1, calY := cal.2.1, calZ := cal.2.2, calT := t, calI := s.params.calIterations
      buf := readings.getLast?.getD s.buf, transport := rest, timer := later
      trace := s.trace ++ writeEvents s.params s.params.regMctl [cfg] 1 1 0 ++
        readings.flatMap (iterationEvents s.params t) ++ [.finish 0] }

/-- R162, R167, R169, R170: whatever the Transport answers, an INIT that completes has recorded one mode write, then exactly
CAL_ITERATIONS groups of one read, one offset write attempt and one WAIT, and finishes with the mode write's status. The Host
has no further act here, and what the offset write's bytes are CalibrationIterationRuns says. -/
def Obligations.InitAlwaysMakesEveryOffsetWrite : Prop :=
  ∀ (n : Nat) (s t : State) (cfg : Byte),
    s.seq = .run (.instr (.init cfg)) (startLabel (.instr (.init cfg))) → s.host = [] →
    stepN n s = .next t → t.seq = .idle →
    ∃ (c1 c2 e : Byte) (groups : List (List Event)),
      t.trace = s.trace ++ writeEvents s.params s.params.regMctl [cfg] c1 c2 e ++ groups.flatten ++
        [.finish (writeCode 1 c1 c2 e)] ∧
      t.status = writeCode 1 c1 c2 e ∧ groups.length = s.params.calIterations ∧
      ∀ g ∈ groups, ∃ (d1 d2 d3 e1 e2 e3 : Byte) (ds : List (Byte × Byte)) (o : Offsets), ds.length = 6 ∧
        g = readEvents s.params s.params.regOutBase d1 d2 d3 ds ++
          writeEvents s.params s.params.regOffBase o.burst e1 e2 e3 ++
          [.prim (.wait s.params.calDelayMs) (some .ack)]

/-- R252: with every primitive answered, every command finishes, with at most the stated number of primitives. -/
def Obligations.EveryCommandFinishesWithinItsBound : Prop :=
  ∀ (c : Command) (s : State), s.seq = .run c (startLabel c) → s.noReset →
    (∀ r ∈ s.transport, r ≠ .never) → (∀ r ∈ s.timer, r ≠ .never) →
    maxBusPrims s.params c ≤ s.transport.length → maxWaits s.params c ≤ s.timer.length →
    ∃ (n : Nat) (t : State) (es : List Event), stepN n s = .next t ∧ t.seq = .idle ∧
      t.trace = s.trace ++ es ∧ primCount es ≤ maxPrims s.params c

/-- R30, R31: two runs from an idle block that differ only in CAL_T, CAL_I and BUF never differ in anything else: those
registers' values before a command are never observed. Across a reset this rests on the model's own point that the draws of
R44 are a function of the reset count alone, so the two runs share them (log 6, unsafe in that point). -/
def Obligations.HiddenRegistersAreNeverObserved : Prop :=
  ∀ (n : Nat) (s t : State) (b : Vector Byte 6) (x : Byte) (j : Nat), s.seq = .idle →
    stepN n s = .next t →
    ∃ (b' : Vector Byte 6) (x' : Byte) (j' : Nat),
      stepN n { s with buf := b, calT := x, calI := j } =
        .next { t with buf := b', calT := x', calI := j' }

/-! ### Values and the bus -/

/-- R144: the three cases of an axis value. -/
def Obligations.AxisValueHasThreeCases : Prop :=
  ∀ l h : Byte,
    (h.getLsbD 1 = true →
      recon l h = (h.extractLsb' 0 2 ++ l).signExtend 16 ∧ -512 ≤ signed16 (recon l h) ∧ signed16 (recon l h) ≤ -1) ∧
    (h.getLsbD 1 = false → h.extractLsb' 2 6 = 0 →
      signed16 (recon l h) = (h.toNat % 2 : Nat) * 256 + l.toNat ∧ 0 ≤ signed16 (recon l h) ∧
        signed16 (recon l h) ≤ 511) ∧
    (h.getLsbD 1 = false → h.extractLsb' 2 6 ≠ 0 →
      recon l h = h ++ l ∧
        (h.getLsbD 7 = false → 1024 ≤ signed16 (recon l h)) ∧ (h.getLsbD 7 = true → signed16 (recon l h) < 0))

/-- R164, R51: an offset is the integer formula reduced modulo 2^16, the same as wrapping 16-bit arithmetic gives, and the
burst holds each offset low byte first. -/
def Obligations.OffsetsReduceModuloTwoToThe16 : Prop :=
  (∀ (v : Word) (t : Byte),
      offset v = -(2 * v) ∧ offsetZ v t = -(2 * (v - t.setWidth 16)) ∧
      ((offset v).toNat : Int) = (-2 * signed16 v) % 65536 ∧
      ((offsetZ v t).toNat : Int) = (-2 * (signed16 v - t.toNat)) % 65536) ∧
    (∀ t : Byte, offsetZ (t.setWidth 16) t = 0) ∧
    ∀ o : Offsets, ∃ b0 b1 b2 b3 b4 b5 : Byte, o.burst = [b0, b1, b2, b3, b4, b5] ∧ b1 ++ b0 = o.x ∧ b3 ++ b2 = o.y ∧
      b5 ++ b4 = o.z

/-- R101: every BEGIN and every REQUEST a command issues names DEV_ADDR, and every REQUEST asks for six bytes. -/
def Obligations.BusNamesOnlyTheDevice : Prop :=
  ∀ (c c' : Command) (s t : State) (p : Label) (q : Prim), execCommand c s = .next t → t.seq = .wait c' p q →
    (∀ a, q = .begin a → a = s.params.devAddr) ∧ ∀ a n, q = .request a n → a = s.params.devAddr ∧ n = 6

/-- R55, R59: the bytes a command writes to the bus: in an address phase the address of one of its own fixed registers, in a
data phase its own payload; no address is computed. INIT's burst is that of the offsets at its label, which in a state that
meets the invariant are those of the calibration registers (R164, R165). -/
def Obligations.CommandsWriteOnlyTheirRegisters : Prop :=
  ∀ (c c' : Command) (s t : State) (p : Label) (bs : List Byte), execCommand c s = .next t →
    t.seq = .wait c' p (.xwrite bs) →
    match c with
    | .instr (.setmode mask) => (p = .write .w2 ∧ bs = [s.params.regMctl]) ∨ (p = .write .w3 ∧ bs = [mask])
    | .instr (.setint mask) => (p = .write .w2 ∧ bs = [s.params.regIntsrc]) ∨ (p = .write .w3 ∧ bs = [mask])
    | .instr .clrlatch =>
        (p = .clear .w2 ∧ bs = [s.params.regLatch]) ∨ (p = .clear .w3 ∧ bs = [s.params.latchClearValue]) ∨
          (p = .enable .w2 ∧ bs = [s.params.regLatch]) ∨ (p = .enable .w3 ∧ bs = [s.params.latchEnableValue])
    | .instr .orient => p = .read .r2 ∧ bs = [s.params.regOutBase]
    | .instr (.init cfg) =>
        (p = .mode .w2 ∧ bs = [s.params.regMctl]) ∨ (p = .mode .w3 ∧ bs = [cfg]) ∨
          (∃ st, p = .c1 st .r2 ∧ bs = [s.params.regOutBase]) ∨
          (∃ st o, p = .c3 st o .w2 ∧ bs = [s.params.regOffBase]) ∨
          ∃ st o, p = .c3 st o .w3 ∧ bs = o.burst ∧ (Inv s → bs = s.offsets.burst)
    | .instr .getmode | .instr .getsens | .illegal => False

/-- R182: CLRLATCH reaches its enable write only from a clear transaction whose END(STOP) answered 0. -/
def Obligations.EnableFollowsASuccessfulClear : Prop :=
  ∀ s t : State, exec .clrlatch s = .next t → t.seq = .run (.instr .clrlatch) (.enable .w1) →
    s.seq = .wait (.instr .clrlatch) (.clear .w4) (.close .stop) ∧
      ∃ v rest, s.transport = .answers v :: rest ∧ v.setWidth 3 = (0 : BitVec 3)

/-! ### Host reads -/

/-- R34, R40, R43: what a host read returns, as a number; that it is the same for any value of the registers the host cannot
read; and that while a command goes on every register but READY reads as before. A read is a function of the state, so it has
no side effect, and its value is zero-extended into a word (log 17). -/
def Obligations.HostReadsReturnTheRegisters : Prop :=
  (∀ s : State,
    (s.seq = .idle → s.hostRead .ready = 1) ∧ (s.seq ≠ .idle → s.hostRead .ready = 0) ∧
    (s.hostRead .status).toNat = s.status.toNat ∧ (s.hostRead .resByte).toNat = s.resByte.toNat ∧
    s.hostRead .resX = s.resX ∧ s.hostRead .resY = s.resY ∧ s.hostRead .resZ = s.resZ) ∧
  (∀ (s : State) (r : HostReg) (m : BitVec 2) (v t : Byte) (x y z : Word) (i : Nat) (b : Vector Byte 6),
    ({ s with
      modeCache := m, sensCache := v, calX := x, calY := y, calZ := z, calT := t, calI := i, buf := b }).hostRead r =
      s.hostRead r) ∧
  ∀ (c : Command) (s t : State) (r : HostReg), execCommand c s = .next t → t.ready = false → r ≠ .ready →
    t.hostRead r = s.hostRead r
end

