-- ==== Sys2Proof/Tests/Slice0.lean ====
section
/-! SUPPORT. Tests of one step or one word each, with results taken from spec/95 or worked out by hand from the rule named,
and for every statement with hypotheses a state that meets them. -/

namespace Sys2Proof.Machine.Tests

/-- Parameters for tests: all different, no part's values. -/
def P0 : Params :=
  ⟨0x2A, 0xA0, 0xB0, 0xC1, 0xC2, 0xC3, 0x0D, 0x0E, 0x00, 3, 200, false⟩

/-- A state for tests, with SEQ as given, no replies and a Host that does nothing. -/
def stateAt (q : Seq) : State :=
  ⟨q, 1, 0x04, 0x0, 0x77, 0x1111, 0x2222, 0x3333, 0x000A, 0xFFFD, 0x0046, 0x40, 0,
    #v[0x00, 0x02, 0xFF, 0x01, 0x80, 0x03], [], P0, [], [], [], 0⟩

/-- The step answers a next state in which `f` holds. -/
def leads (o : Host.Outcome State Fault Refusal) (f : State → Bool) : Bool :=
  match o with
  | .next t => f t
  | .fault _ | .refused _ => false

theorem leads_next {o : Host.Outcome State Fault Refusal} {f : State → Bool} (h : leads o f = true) :
    ∃ t, o = .next t ∧ f t = true := by
  cases o with
  | next t => exact ⟨t, rfl, h⟩
  | fault r => cases h
  | refused r => cases h

/-! ### Well-formed words and lines -/

/-- R75: a word of each class is refused, and a legal one is not. -/
theorem test_wordChecks :
    reservedClear 0x1105 = false ∧ opcodeNamed 0x0800 = false ∧ opcodeNamed 0x0000 = false ∧
      operandAllowed 0x0201 = false ∧ legalWord 0x1105 = false ∧ legalWord 0x0800 = false ∧
      legalWord 0x0201 = false ∧ legalWord 0x01FF = true ∧ legalWord 0x0700 = true := by decide

/-- R75: each class has its own name in the decoder. -/
theorem test_illegalReasons :
    decodeWord 0xF105 = .error .reservedBits ∧ decodeWord 0x0F00 = .error .noOpcode ∧
      decodeWord 0x00FF = .error .noOpcode ∧ decodeWord 0x0701 = .error .operandNotZero := by decide

/-- R77, R78: a line with the wrong number of operands, and one with an operand out of range, are refused. -/
theorem test_lineChecks :
    (⟨.getmode, [0]⟩ : Line).arityOk = false ∧ (⟨.setint, [1, 4]⟩ : Line).arityOk = false ∧
      (⟨.setmode, []⟩ : Line).arityOk = false ∧ (⟨.setmode, [256]⟩ : Line).rangeOk = false ∧
      (⟨.setmode, [1, 4]⟩ : Line).wf = true := by decide

/-! ### Decoding: words written out from the encoding RSV OP IMM (R71, R74) -/

theorem test_decode_setmode : decode 0b0000_0001_00000101 = .instr (.setmode 0x05) := by decide
theorem test_decode_getmode : decode 0b0000_0010_00000000 = .instr .getmode := by decide
theorem test_decode_getsens : decode 0b0000_0011_00000000 = .instr .getsens := by decide
theorem test_decode_orient : decode 0b0000_0100_00000000 = .instr .orient := by decide
theorem test_decode_init : decode 0b0000_0101_00000101 = .instr (.init 0x05) := by decide
theorem test_decode_setint : decode 0b0000_0110_11111111 = .instr (.setint 0xFF) := by decide
theorem test_decode_clrlatch : decode 0b0000_0111_00000000 = .instr .clrlatch := by decide

/-- The words on both sides of every boundary of R75. -/
theorem test_illegalBoundaries :
    decode 0x00FF = .illegal ∧ decode 0x0100 ≠ .illegal ∧ decode 0x01FF ≠ .illegal ∧ decode 0x0201 = .illegal ∧
      decode 0x02FF = .illegal ∧ decode 0x0300 ≠ .illegal ∧ decode 0x0301 = .illegal ∧ decode 0x03FF = .illegal ∧
      decode 0x0401 = .illegal ∧ decode 0x04FF = .illegal ∧ decode 0x0500 ≠ .illegal ∧ decode 0x06FF ≠ .illegal ∧
      decode 0x0701 = .illegal ∧ decode 0x07FF = .illegal ∧ decode 0x0800 = .illegal ∧ decode 0x0FFF = .illegal ∧
      decode 0x1000 = .illegal ∧ decode 0xFFFF = .illegal := by decide

/-- The host's numbering of a word's bits; a word longer than 16 bits is no command word (R70). -/
theorem test_tableWord :
    decodeTableWord 16 0x0505 = some (.init 0x05) ∧ decodeTableWord 16 0x0480 = none ∧
      decodeTableWord 24 0x0200 = none := by decide

/-! ### The assembler: the rows of spec/95 2.1 -/

theorem test_assemble :
    assemble ⟨.setmode, [0x01, 0x08]⟩ = .ok 0x0109 ∧ assemble ⟨.init, [0x00]⟩ = .ok 0x0500 ∧
      assemble ⟨.clrlatch, []⟩ = .ok 0x0700 ∧ assemble ⟨.setmode, [256]⟩ = .error .operandRange := by decide

theorem test_assembleText_symbols :
    assembleText ("SETMODE MEASURE, G2 ; both fields".toList) = .ok (some 0x0105) := by decide

theorem test_assembleText_number : assembleText ("SETINT 0x03".toList) = .ok (some 0x0603) := by decide

/-! ### Values: rows of spec/95 2.3, 2.4 and 2.6 -/

theorem test_recon :
    recon 0x40 0x00 = 0x0040 ∧ recon 0xFF 0x01 = 0x01FF ∧ recon 0x00 0x02 = 0xFE00 ∧ recon 0x34 0x12 = 0xFE34 ∧
      recon 0x34 0x11 = 0x1134 ∧ recon 0x00 0x80 = 0x8000 := by decide

theorem test_offset :
    offset 0x000A = 0xFFEC ∧ offset 0xFFFD = 0x0006 ∧ offset 0xFE00 = 0x0400 ∧ offset 0x7FFF = 0x0002 ∧
      offset 0x8000 = 0x0000 := by decide

theorem test_offsetZ :
    offsetZ 64 0x40 = 0x0000 ∧ offsetZ 0 0x40 = 0x0080 ∧ offsetZ 70 0x40 = 0xFFF4 ∧ offsetZ 0x8000 0x40 = 0x0080 := by
  decide

theorem test_decodeScale :
    decodeScale 0x00 = 0x10 ∧ decodeScale 0x04 = 0x40 ∧ decodeScale 0x08 = 0x20 ∧ decodeScale 0x0C = 0x01 := by decide

/-- R123's codec on the two cases of E1. -/
theorem test_codec : decodeConfig 0x05 = (1, 0x04) ∧ decodeConfig 0x0B = (3, 0x08) ∧ encodeConfig 3 0x08 = 0x0B := by
  decide

/-! ### One step of each command -/

/-- SETMODE's first primitive names DEV_ADDR (R102). -/
theorem test_setmode_begins :
    leads (exec (.setmode 0x09) (stateAt (.run (.instr (.setmode 0x09)) (.write .w1))))
      (fun t => t.seq == .wait (.instr (.setmode 0x09)) (.write .w1) (.begin 0x2A)) = true := by decide

/-- spec/95 2.3: SETMODE 0xF6 leaves mode 2 and sensitivity 0x04; a failed one leaves both caches (R122). -/
theorem test_setmode_completes :
    leads (exec (.setmode 0xF6) (stateAt (.run (.instr (.setmode 0xF6)) (.finish 0))))
        (fun t => t.modeCache == 2 && t.sensCache == 0x04 && t.status == 0) = true ∧
      leads (exec (.setmode 0x0A) (stateAt (.run (.instr (.setmode 0x0A)) (.finish 3))))
        (fun t => t.modeCache == 1 && t.sensCache == 0x04 && t.status == 3) = true := by decide

/-- E9: with Measurement and 2g cached, GETMODE gives 0x01. -/
theorem test_getmode :
    leads (exec .getmode (stateAt (.run (.instr .getmode) .start)))
      (fun t => t.resByte == 0x01 && t.status == 0 && t.ready) = true := by decide

/-- E9: with Measurement and 2g cached, GETSENS gives 0x40. -/
theorem test_getsens :
    leads (exec .getsens (stateAt (.run (.instr .getsens) .start)))
      (fun t => t.resByte == 0x40 && t.status == 0 && t.ready) = true := by decide

/-- R104: a granted count of 7 is a mismatch, not "at least 6". -/
theorem test_orient_grant :
    leads (exec .orient { stateAt (.wait (.instr .orient) (.read .r4) (.request 0x2A 6)) with transport := [.answers 7] })
      (fun t => t.seq == .run (.instr .orient) (.finish 7)) = true := by decide

/-- spec/95 2.5: the bytes 00 02 FF 01 80 03. -/
theorem test_orient_completes :
    leads (exec .orient (stateAt (.run (.instr .orient) (.finish 0))))
      (fun t => t.resX == 0xFE00 && t.resY == 0x01FF && t.resZ == 0xFF80 && t.status == 0) = true := by decide

/-- spec/95 2.6 on the calibration registers 10, -3 and 70 with the target 0x40. -/
theorem test_init_offsets :
    leads (exec (.init 0x05) (stateAt (.run (.instr (.init 0x05)) (.c2 0))))
      (fun t => t.seq == .run (.instr (.init 0x05)) (.c3 0 ⟨0xFFEC, 0x0006, 0xFFF4⟩ .w1)) = true := by decide

/-- R169, R170: a failed mode write goes on to the calibration with its status kept. -/
theorem test_init_modeFailed :
    leads (exec (.init 0x05) (stateAt (.run (.instr (.init 0x05)) (.modeRet 3))))
      (fun t => t.seq == .run (.instr (.init 0x05)) (.target 3) && t.modeCache == 1) = true := by decide

/-- R180: SETINT's payload is its mask, verbatim. -/
theorem test_setint_payload :
    leads (exec (.setint 0xFF) (stateAt (.run (.instr (.setint 0xFF)) (.write .w3))))
      (fun t => t.seq == .wait (.instr (.setint 0xFF)) (.write .w3) (.xwrite [0xFF])) = true := by decide

/-- R106: a close status of 5 is returned as it is, from the low three bits of the reply (log 3). -/
theorem test_setint_close :
    leads (exec (.setint 0x03)
        { stateAt (.wait (.instr (.setint 0x03)) (.write .w4) (.close .stop)) with transport := [.answers 0xFD] })
      (fun t => t.seq == .run (.instr (.setint 0x03)) (.finish 5)) = true := by decide

/-- R181, R182: a clear write that fails ends CLRLATCH. -/
theorem test_clrlatch_clearFails :
    leads (exec .clrlatch
        { stateAt (.wait (.instr .clrlatch) (.clear .w4) (.close .stop)) with transport := [.answers 2] })
      (fun t => t.seq == .run (.instr .clrlatch) (.finish 2)) = true := by decide

/-- R181: the second write is of LATCH_ENABLE_VALUE. -/
theorem test_clrlatch_enables :
    leads (exec .clrlatch (stateAt (.run (.instr .clrlatch) (.enable .w3))))
      (fun t => t.seq == .wait (.instr .clrlatch) (.enable .w3) (.xwrite [0x0E])) = true := by decide

/-- R205: ILLEGAL gives IllegalCommand and nothing else. -/
theorem test_illegal :
    leads (execIllegal (stateAt (.run .illegal .start)))
      (fun t => t == { stateAt .idle with status := 0xF, trace := [.finish 0xF] }) = true := by decide

/-- R240: reset in the middle of a WAIT drops the WAIT's acknowledge and starts INIT. -/
theorem test_reset :
    leads (step { stateAt (.wait (.instr (.init 0x05)) (.c4 0) (.wait 200)) with
        host := [.reset 0], timer := [.elapsed], transport := [.answers 1] })
      (fun t => t.seq == .run (.instr (.init 0x00)) (.mode .w1) && t.timer == [] && t.transport == [.answers 1] &&
        t.resX == 0 && t.trace == [.prim (.wait 200) none]) = true := by decide

/-- A word placed for the next fetch runs in the next step. -/
theorem test_withFetchWord :
    leads (step ((stateAt .idle).withFetchWord 16 0x0200)) (fun t => t.resByte == 0x01 && t.ready) = true ∧
      leads (step ((stateAt .idle).withFetchWord 16 0x0201)) (fun t => t.status == 0xF) = true := by decide

/-- R34: what the host reads. -/
theorem test_hostRead :
    (stateAt .idle).hostRead .ready = 1 ∧ (stateAt (.run .illegal .start)).hostRead .ready = 0 ∧
      (stateAt .idle).hostRead .resByte = 0x0077 ∧ (stateAt .idle).hostRead .resZ = 0x3333 := by decide

/-! ### States that meet the hypotheses of the statements -/

theorem noReset_stateAt (q : Seq) : (stateAt q).noReset := by simp [State.noReset, stateAt]

/-- Any state with an empty script of the Host. -/
theorem noReset_of_empty {s : State} (h : s.host = []) : s.noReset := by simp [State.noReset, h]

theorem inv_idle : Inv (stateAt .idle) :=
  ⟨trivial, rfl, rfl, show 0 ≤ 3 by decide, (fun _ h => by cases h), (fun _ h => by cases h)⟩

/-- SETMODE waiting for the count of its address byte. -/
def waitingBus : State := stateAt (.wait (.instr (.setmode 0x05)) (.write .w2) (.xwrite [0xC1]))

/-- INIT waiting for the Delay timer. -/
def waitingTimer : State := stateAt (.wait (.instr (.init 0x05)) (.c4 0) (.wait 200))

theorem inv_waitingBus (l : List BusReply) : Inv { waitingBus with transport := l } :=
  ⟨rfl, show (0x04 : Byte) &&& 0xF3 = 0 by decide, rfl, show 0 ≤ 3 by decide,
    (fun _ h => by cases h; trivial), (fun _ h => by cases h; trivial)⟩

theorem inv_waitingTimer (l : List TimerReply) : Inv { waitingTimer with timer := l } :=
  ⟨rfl, show (0x04 : Byte) &&& 0xF3 = 0 by decide, rfl, show 0 ≤ 3 by decide,
    (fun _ h => by cases h; exact show 0 < 8 by decide), (fun _ h => by cases h; exact ⟨rfl, show 0 < 3 by decide⟩)⟩

/-- An INIT in C3 with the offsets of the calibration registers. -/
theorem inv_c3 (w : WPos) : Inv (stateAt (.run (.instr (.init 0x05)) (.c3 0 ⟨0xFFEC, 0x0006, 0xFFF4⟩ w))) :=
  ⟨rfl, show (0x04 : Byte) &&& 0xF3 = 0 by decide, rfl, show 0 ≤ 3 by decide,
    (fun _ h => by cases h; exact show 0 < 8 by decide),
    (fun _ h => by cases h; exact ⟨rfl, show 0 < 3 by decide, by cases w <;> decide⟩)⟩

theorem witness_LegalWordsSelectOneRow : decode 0x0100 = .instr (.setmode 0x00) ∧ decode 0x0800 = .illegal := by decide

/-- Both ends of the operand's range, each kind of faulty line, and a well-formed pair. -/
theorem witness_AssemblerEncodesLines :
    (0 < 256 ∧ 255 < 256) ∧ (∃ v ∈ (⟨.init, [0, 256]⟩ : Line).operands, 256 ≤ v) ∧
      ((⟨.orient, [0]⟩ : Line).mnemonic = .orient ∧ (⟨.orient, [0]⟩ : Line).operands ≠ []) ∧
      ([] : List Nat).length ≠ 1 ∧ [1, 4].length ≠ 1 ∧ ([0, 1, 2].length ≠ 1 ∧ [0, 1, 2].length ≠ 2) ∧
      (⟨.setmode, [0, 255]⟩ : Line).wf = true := by decide

/-- An idle block, and a busy one that steps. -/
theorem witness_IssueIsTakenOnlyWhenReady :
    (let s := { stateAt .idle with host := [.issue 0x0200] };
      s.host = [.issue 0x0200] ∧ s.ready = true) ∧
    (let s := { stateAt (.run (.instr .getmode) .start) with host := [.issue 0x0400] };
      s.host = [.issue 0x0400] ∧ s.ready = false ∧ ∃ t, step s = .next t) :=
  ⟨by decide, by decide, by decide, _, rfl⟩

theorem witness_StepRunsTheDecodedCommand :
    ((stateAt (.run (.instr .getmode) .start)).seq.command = some (.instr .getmode) ∧
      (stateAt (.run (.instr .getmode) .start)).noReset) ∧
    ((stateAt (.run .illegal .start)).seq.command = some .illegal ∧ (stateAt (.run .illegal .start)).noReset) ∧
    (let s := { stateAt (.run (.instr .getmode) .start) with host := [.reset 1] };
      s.host = .reset (0 + 1) :: [] ∧ s.seq.command = some (.instr .getmode)) ∧
    (let s := { stateAt (.run .illegal .start) with host := [.reset 1] };
      s.host = .reset (0 + 1) :: [] ∧ s.seq.command = some .illegal) ∧
    (let s := { stateAt .idle with host := [.reset 1] };
      s.host = .reset (0 + 1) :: [] ∧ s.seq = .idle) ∧
    (let s := { stateAt .idle with host := [.issue 0x0105] };
      s.ready = true ∧ s.host = .issue 0x0105 :: [] ∧ decodeWord 0x0105 = .ok (.setmode 0x05)) ∧
    (let s := { stateAt .idle with host := [.issue 0x0800] };
      s.ready = true ∧ s.host = .issue 0x0800 :: [] ∧ ∀ i, decodeWord 0x0800 ≠ .ok i) :=
  ⟨⟨rfl, noReset_stateAt _⟩, ⟨rfl, noReset_stateAt _⟩, ⟨rfl, rfl⟩, ⟨rfl, rfl⟩, ⟨rfl, rfl⟩, by decide,
    rfl, rfl, fun i h => by cases (show Except.error Illegal.noOpcode = .ok i from h)⟩

/-- A reset of an idle block, of one that waits for the Transport and of one that waits for the Delay timer. -/
theorem witness_ResetRestartsFromAnyState :
    (let s := { stateAt .idle with host := [.reset 0] };
      s.host = .reset 0 :: [] ∧ s.seq.outstanding = none) ∧
    (let s := { waitingBus with host := [.reset 0] };
      s.host = .reset 0 :: [] ∧ s.seq.outstanding = some (.xwrite [0xC1]) ∧ (Prim.xwrite [0xC1]).toTimer = false) ∧
    (let s := { waitingTimer with host := [.reset 0] };
      s.host = .reset 0 :: [] ∧ s.seq.outstanding = some (.wait 200) ∧ (Prim.wait 200).toTimer = true) := by decide

theorem witness_StepKeepsTheInvariant :
    Inv (stateAt (.run (.instr (.init 0x05)) (.c3 0 ⟨0xFFEC, 0x0006, 0xFFF4⟩ .w1))) ∧
      ∃ t, step (stateAt (.run (.instr (.init 0x05)) (.c3 0 ⟨0xFFEC, 0x0006, 0xFFF4⟩ .w1))) = .next t :=
  ⟨inv_c3 _, _, rfl⟩

theorem witness_NoStepStops : Inv waitingBus ∧ waitingBus.seq.command = some (.instr (.setmode 0x05)) :=
  ⟨inv_waitingBus [], rfl⟩

/-- A primitive issued; one that is not answered and one that is, for each agent. -/
theorem witness_IssuedPrimitiveHoldsForItsAnswer :
    (let s := stateAt (.run (.instr (.setmode 0x05)) (.write .w2));
      s.noReset ∧ (program (.instr (.setmode 0x05)) s.params (.write .w2)).bind Act.primitive = some (.xwrite [0xC1])) ∧
    (∀ l ∈ [[], [.never], [.answers 1]], (let s := { waitingBus with transport := l };
      Inv s ∧ s.noReset ∧ s.seq = .wait (.instr (.setmode 0x05)) (.write .w2) (.xwrite [0xC1]) ∧
        (Prim.xwrite [0xC1]).toTimer = false)) ∧
    ∀ l ∈ [[], [.never], [.elapsed]], (let s := { waitingTimer with timer := l };
      Inv s ∧ s.noReset ∧ s.seq = .wait (.instr (.init 0x05)) (.c4 0) (.wait 200) ∧ (Prim.wait 200).toTimer = true) :=
  ⟨⟨noReset_stateAt _, rfl⟩, fun l _ => ⟨inv_waitingBus l, noReset_of_empty rfl, rfl, rfl⟩,
    fun l _ => ⟨inv_waitingTimer l, noReset_of_empty rfl, rfl, rfl⟩⟩

theorem witness_IdleBlockStaysIdle : (stateAt .idle).ready = true ∧ (stateAt .idle).host = [] := by decide

theorem witness_TraceOnlyGrows : ∃ t, stepN 1 { stateAt .idle with host := [.issue 0x0200] } = .next t := ⟨_, rfl⟩

/-- A step that completes a command and one that does not. -/
theorem witness_ResultsChangeOnlyAtCompletion :
    leads (execCommand (.instr .getmode) (stateAt (.run (.instr .getmode) .start))) (fun t => t.ready) = true ∧
      leads (execCommand (.instr .orient) (stateAt (.run (.instr .orient) (.read .r1)))) (fun t => !t.ready) = true := by
  decide

/-- A SETMODE and an INIT whose write succeeded. -/
theorem witness_CachesChangeOnlyOnSuccess :
    leads (step (stateAt (.run (.instr (.setmode 0x0F)) (.finish 0)))) (fun t => t.modeCache != 1 && t.sensCache != 0x04) =
        true ∧
      leads (step (stateAt (.run (.instr (.init 0x08)) (.modeRet 0)))) (fun t => t.modeCache != 1 && t.sensCache != 0x04) =
        true ∧
      ∀ q rest, (stateAt q).host ≠ .reset 0 :: rest :=
  ⟨by decide, by decide, fun q => noReset_stateAt q 0⟩

theorem witness_ResultRegistersHaveTheirWriters :
    leads (step (stateAt (.run (.instr .getmode) .start))) (fun t => t.resByte != 0x77) = true ∧
      leads (step (stateAt (.run (.instr .getsens) .start))) (fun t => t.resByte != 0x77) = true ∧
      leads (step (stateAt (.run (.instr .orient) (.finish 0))))
        (fun t => t.resX != 0x1111 && t.resY != 0x2222 && t.resZ != 0x3333) = true ∧
      ∀ q rest, (stateAt q).host ≠ .reset 0 :: rest :=
  ⟨by decide, by decide, by decide, fun q => noReset_stateAt q 0⟩

theorem witness_CalibrationRegistersHaveOneWriter :
    leads (step (stateAt (.run (.instr (.init 0x05)) (.c1Ret 0 0))))
        (fun t => t.calX != 0x000A && t.calY != 0xFFFD && t.calZ != 0x0046) = true ∧
      ∀ q rest, (stateAt q).host ≠ .reset 0 :: rest :=
  ⟨by decide, fun q => noReset_stateAt q 0⟩

/-- Every command answers a next state from its start. -/
theorem witness_FrameOfEachCommand :
    (∃ t, exec (.setint 0x03) (stateAt (.run (.instr (.setint 0x03)) (.write .w1))) = .next t) ∧
      (∃ t, exec .clrlatch (stateAt (.run (.instr .clrlatch) (.clear .w1))) = .next t) ∧
      (∃ t, execIllegal (stateAt (.run .illegal .start)) = .next t) ∧
      (∃ t, exec (.setmode 0x05) (stateAt (.run (.instr (.setmode 0x05)) (.write .w1))) = .next t) ∧
      (∃ t, exec .getmode (stateAt (.run (.instr .getmode) .start)) = .next t) ∧
      (∃ t, exec .getsens (stateAt (.run (.instr .getsens) .start)) = .next t) ∧
      (∃ t, exec .orient (stateAt (.run (.instr .orient) (.read .r1))) = .next t) ∧
      ∃ t, exec (.init 0x05) (stateAt (.run (.instr (.init 0x05)) (.mode .w1))) = .next t :=
  ⟨⟨_, rfl⟩, ⟨_, rfl⟩, ⟨_, rfl⟩, ⟨_, rfl⟩, ⟨_, rfl⟩, ⟨_, rfl⟩, ⟨_, rfl⟩, ⟨_, rfl⟩⟩

theorem witness_GetmodeReportsTheMode :
    (stateAt (.run (.instr .getmode) .start)).seq = .run (.instr .getmode) .start := rfl

/-- Each of the four values GETSENS tells apart. -/
theorem witness_GetsensReportsTheScale :
    ∀ v ∈ ([0x00, 0x04, 0x08, 0x0C] : List Byte),
      ({ stateAt (.run (.instr .getsens) .start) with sensCache := v }).seq = .run (.instr .getsens) .start :=
  fun _ _ => rfl

/-- Completions with a success and with a failure. -/
theorem witness_completions :
    ∀ code ∈ ([0, 6] : List Code),
      (stateAt (.run (.instr (.setmode 0x05)) (.finish code))).seq = .run (.instr (.setmode 0x05)) (.finish code) ∧
      (stateAt (.run (.instr .orient) (.finish code))).seq = .run (.instr .orient) (.finish code) ∧
      (stateAt (.run (.instr (.init 0x05)) (.finish code))).seq = .run (.instr (.init 0x05)) (.finish code) ∧
      (stateAt (.run (.instr (.setint 0x03)) (.finish code))).seq = .run (.instr (.setint 0x03)) (.finish code) ∧
      (stateAt (.run (.instr .clrlatch) (.finish code))).seq = .run (.instr .clrlatch) (.finish code) :=
  fun _ _ => ⟨rfl, rfl, rfl, rfl, rfl⟩

theorem witness_IllegalWordFinishesWithIllegalCommand :
    let s := { stateAt .idle with host := [.issue 0x0800] }
    s.seq = .idle ∧ s.host = .issue 0x0800 :: [] ∧ (∀ n more, ([] : List HostAct) ≠ .reset n :: more) ∧
      decode 0x0800 = .illegal :=
  ⟨rfl, rfl, (fun _ _ h => by cases h), by decide⟩

theorem witness_SetmodeStoresTheEncodedFields :
    (stateAt (.run (.instr (.setmode (encodeConfig (modeCode .pulseDetection) (sensCode .g4)))) (.finish 0))).seq =
      .run (.instr (.setmode (encodeConfig (modeCode .pulseDetection) (sensCode .g4)))) (.finish 0) := rfl

/-- The script ends right after a rejected address byte. -/
theorem witness_SetmodeRunsToCompletion :
    let s := { stateAt (.run (.instr (.setmode 0x05)) (.write .w1)) with transport := answers [0, 0] }
    s.seq = .run (.instr (.setmode 0x05)) (startLabel (.instr (.setmode 0x05))) ∧ s.noReset ∧
      s.transport = (answers [0, 0, 0, 0]).take
        (writeEvents s.params s.params.regMctl [0x05] 0 0 0).length ++ [] :=
  ⟨rfl, noReset_of_empty rfl, rfl⟩

/-- The Transport never answers again after a rejected payload. -/
theorem witness_SetintRunsToCompletion :
    let s := { stateAt (.run (.instr (.setint 0x03)) (.write .w1)) with transport := answers [0, 1, 0] ++ [BusReply.never] }
    s.seq = .run (.instr (.setint 0x03)) (startLabel (.instr (.setint 0x03))) ∧ s.noReset ∧
      s.transport = (answers [0, 1, 0, 0]).take
        (writeEvents s.params s.params.regIntsrc [0x03] 1 0 0).length ++ [.never] :=
  ⟨rfl, noReset_of_empty rfl, rfl⟩

/-- A clear write that fails at its close, and one that succeeds. -/
theorem witness_ClrlatchRunsToCompletion :
    (let s := { stateAt (.run (.instr .clrlatch) (.clear .w1)) with transport := answers [0, 1, 1, 1] };
      s.seq = .run (.instr .clrlatch) (startLabel (.instr .clrlatch)) ∧ s.noReset ∧
        s.transport = (answers [0, 1, 1, 1]).take
          (writeEvents s.params s.params.regLatch [s.params.latchClearValue] 1 1 1).length ++ [] ∧
        writeCode 1 1 1 1 ≠ 0) ∧
    let s := { stateAt (.run (.instr .clrlatch) (.clear .w1)) with transport := answers [0, 1, 1, 0, 0, 0] }
    s.seq = .run (.instr .clrlatch) (startLabel (.instr .clrlatch)) ∧ s.noReset ∧
      s.transport = answers [0, 1, 1, 0] ++ (answers [0, 0, 0, 0]).take
        (writeEvents s.params s.params.regLatch [s.params.latchEnableValue] 0 0 0).length ++ [] ∧
      writeCode 1 1 1 0 = 0 :=
  ⟨⟨rfl, noReset_of_empty rfl, rfl, by decide⟩, rfl, noReset_of_empty rfl, rfl, by decide⟩

/-- A drain that ends short after three bytes (spec/95 2.2). -/
def shortDrain : List (Byte × Byte) := [(1, 0x0A), (1, 0x00), (200, 0xFD), (0, 0), (0, 0), (0, 0)]

theorem witness_OrientRunsToCompletion :
    let s := { stateAt (.run (.instr .orient) (.read .r1)) with
      transport := answers [0, 1, 0, 6, 1, 0x0A, 1, 0x00, 200, 0xFD, 0] }
    s.seq = .run (.instr .orient) (startLabel (.instr .orient)) ∧ s.noReset ∧ shortDrain.length = 6 ∧
      s.transport = (readReplies 0 1 0 6 shortDrain).take
        (readEvents s.params s.params.regOutBase 1 0 6 shortDrain).length ++ [] :=
  ⟨rfl, noReset_of_empty rfl, rfl, by decide⟩

theorem witness_InitConfiguresThenCalibrates :
    let s := { stateAt (.run (.instr (.init 0x05)) (.mode .w1)) with transport := answers [0, 0] }
    s.seq = .run (.instr (.init 0x05)) (startLabel (.instr (.init 0x05))) ∧ s.noReset ∧
      s.transport = (answers [0, 0, 0, 0]).take
        (writeEvents s.params s.params.regMctl [0x05] 0 0 0).length ++ [] :=
  ⟨rfl, noReset_of_empty rfl, rfl⟩

theorem witness_CalibrationIterationRuns :
    let s := { stateAt (.run (.instr (.init 0x05)) (.loop 0)) with
      calI := 2, timer := [.elapsed]
      transport := answers [0, 1, 0, 6, 1, 0x0A, 1, 0x00, 200, 0xFD, 0, 0, 1, 5] }
    let cal := calAfter (s.calX, s.calY, s.calZ) (readCode s.params 1 0 6 shortDrain)
      (readBytes s.params 1 0 6 shortDrain)
    s.seq = .run (.instr (.init 0x05)) (.loop 0) ∧ s.noReset ∧ s.calI < s.params.calIterations ∧
      shortDrain.length = 6 ∧
      s.transport = (readReplies 0 1 0 6 shortDrain).take
          (readEvents s.params s.params.regOutBase 1 0 6 shortDrain).length ++
        (answers [0, 1, 5, 0]).take
          (writeEvents s.params s.params.regOffBase (offsetsOf cal s.calT).burst 1 5 0).length ++ [] ∧
      s.timer = .elapsed :: [] :=
  ⟨rfl, noReset_of_empty rfl, by decide, rfl, by decide, rfl⟩

/-- The last reading of program P1 of spec/95. -/
def reading : Vector Byte 6 := #v[0x0A, 0x00, 0xFD, 0x03, 0x46, 0x00]

theorem witness_AcceptedInitCalibratesEveryReading :
    let readings := [reading, reading, reading]
    let s := { stateAt (.run (.instr (.init 0x05)) (.mode .w1)) with
      transport := writeOk 1 ++ readings.flatMap (fun b => readOk b ++ writeOk 6)
      timer := List.replicate 3 .elapsed }
    s.seq = .run (.instr (.init 0x05)) (startLabel (.instr (.init 0x05))) ∧ s.noReset ∧
      readings.length = s.params.calIterations ∧
      s.transport = writeOk 1 ++ readings.flatMap (fun b => readOk b ++ writeOk 6) ++ [] ∧
      s.timer = List.replicate s.params.calIterations .elapsed ++ [] :=
  ⟨rfl, noReset_of_empty rfl, rfl, by simp, rfl⟩

/-- An INIT with one calibration reading, all of whose address bytes the Transport rejects: it completes. -/
theorem witness_InitAlwaysMakesEveryOffsetWrite :
    let s := { stateAt (.run (.instr (.init 0x05)) (.mode .w1)) with
      params := { P0 with calIterations := 1 }, transport := answers [0, 0, 0, 0, 0, 0], timer := [.elapsed] }
    s.seq = .run (.instr (.init 0x05)) (startLabel (.instr (.init 0x05))) ∧ s.host = [] ∧
      leads (stepN 21 s) (fun t => t.seq == .idle && t.status == 6) = true :=
  ⟨rfl, rfl, by decide⟩

/-- A command with no primitive, and INIT with exactly its bound of answers. -/
theorem witness_EveryCommandFinishesWithinItsBound :
    (let s := stateAt (.run .illegal .start);
      s.seq = .run .illegal (startLabel .illegal) ∧ s.noReset ∧ (∀ r ∈ s.transport, r ≠ .never) ∧
        (∀ r ∈ s.timer, r ≠ .never) ∧ maxBusPrims s.params .illegal ≤ s.transport.length ∧
        maxWaits s.params .illegal ≤ s.timer.length) ∧
    let s := { stateAt (.run (.instr (.init 0x05)) (.mode .w1)) with
      transport := List.replicate 64 (.answers 1), timer := List.replicate 3 .elapsed }
    s.seq = .run (.instr (.init 0x05)) (startLabel (.instr (.init 0x05))) ∧ s.noReset ∧
      (∀ r ∈ s.transport, r ≠ .never) ∧ (∀ r ∈ s.timer, r ≠ .never) ∧
      maxBusPrims s.params (.instr (.init 0x05)) ≤ s.transport.length ∧
      maxWaits s.params (.instr (.init 0x05)) ≤ s.timer.length :=
  ⟨⟨rfl, noReset_of_empty rfl, by decide, by decide, by decide, by decide⟩,
    rfl, noReset_of_empty rfl, by decide, by decide, by decide, by decide⟩

theorem witness_HiddenRegistersAreNeverObserved :
    (stateAt .idle).seq = .idle ∧ ∃ t, stepN 1 { stateAt .idle with host := [.issue 0x0505] } = .next t := ⟨rfl, _, rfl⟩

/-- Both ends of each of R144's cases: negative, small, and with bits 7:2 set on either side of bit 7. -/
theorem witness_AxisValueHasThreeCases :
    ((0x02 : Byte).getLsbD 1 = true ∧ signed16 (recon 0x00 0x02) = -512 ∧ signed16 (recon 0xFF 0xFF) = -1) ∧
      ((0x01 : Byte).getLsbD 1 = false ∧ (0x01 : Byte).extractLsb' 2 6 = 0 ∧ signed16 (recon 0xFF 0x01) = 511 ∧
        signed16 (recon 0x00 0x00) = 0) ∧
      ((0x04 : Byte).getLsbD 1 = false ∧ (0x04 : Byte).extractLsb' 2 6 ≠ 0 ∧ (0x04 : Byte).getLsbD 7 = false ∧
        signed16 (recon 0x00 0x04) = 1024) ∧
      (0x80 : Byte).getLsbD 1 = false ∧ (0x80 : Byte).extractLsb' 2 6 ≠ 0 ∧ (0x80 : Byte).getLsbD 7 = true ∧
        signed16 (recon 0x00 0x80) = -32768 := by decide

/-- The command issues the primitive at the label. -/
def issues (c : Command) (p : Label) (q : Prim) : Bool :=
  leads (execCommand c (stateAt (.run c p))) (fun t => t.seq == .wait c p q)

theorem witness_BusNamesOnlyTheDevice :
    issues (.instr .clrlatch) (.clear .w1) (.begin 0x2A) = true ∧
      issues (.instr .orient) (.read .r4) (.request 0x2A 6) = true := by decide

/-- Every address and payload of every command that writes, and a state that meets the invariant for INIT's burst. -/
theorem witness_CommandsWriteOnlyTheirRegisters :
    Inv (stateAt (.run (.instr (.init 0x05)) (.c3 0 ⟨0xFFEC, 0x0006, 0xFFF4⟩ .w3))) ∧
      issues (.instr (.setmode 0x05)) (.write .w2) (.xwrite [0xC1]) = true ∧
      issues (.instr (.setmode 0x05)) (.write .w3) (.xwrite [0x05]) = true ∧
      issues (.instr (.setint 0x03)) (.write .w2) (.xwrite [0xC2]) = true ∧
      issues (.instr (.setint 0x03)) (.write .w3) (.xwrite [0x03]) = true ∧
      issues (.instr .clrlatch) (.clear .w2) (.xwrite [0xC3]) = true ∧
      issues (.instr .clrlatch) (.clear .w3) (.xwrite [0x0D]) = true ∧
      issues (.instr .clrlatch) (.enable .w2) (.xwrite [0xC3]) = true ∧
      issues (.instr .clrlatch) (.enable .w3) (.xwrite [0x0E]) = true ∧
      issues (.instr .orient) (.read .r2) (.xwrite [0xA0]) = true ∧
      issues (.instr (.init 0x05)) (.mode .w2) (.xwrite [0xC1]) = true ∧
      issues (.instr (.init 0x05)) (.mode .w3) (.xwrite [0x05]) = true ∧
      issues (.instr (.init 0x05)) (.c1 0 .r2) (.xwrite [0xA0]) = true ∧
      issues (.instr (.init 0x05)) (.c3 0 ⟨0xFFEC, 0x0006, 0xFFF4⟩ .w2) (.xwrite [0xB0]) = true ∧
      issues (.instr (.init 0x05)) (.c3 0 ⟨0xFFEC, 0x0006, 0xFFF4⟩ .w3)
        (.xwrite [0xEC, 0xFF, 0x06, 0x00, 0xF4, 0xFF]) = true :=
  ⟨inv_c3 _, by decide⟩

/-- A clear write closed with a reply whose low three bits are 0. -/
theorem witness_EnableFollowsASuccessfulClear :
    leads (exec .clrlatch
        { stateAt (.wait (.instr .clrlatch) (.clear .w4) (.close .stop)) with transport := [.answers 8] })
      (fun t => t.seq == .run (.instr .clrlatch) (.enable .w1)) = true := by decide

/-- An idle block, a busy one, and a busy one's step that leaves it busy. -/
theorem witness_HostReadsReturnTheRegisters :
    (stateAt .idle).seq = .idle ∧ (stateAt (.run .illegal .start)).seq ≠ .idle ∧
      (leads (execCommand (.instr .orient) (stateAt (.run (.instr .orient) (.read .r1)))) (fun t => !t.ready) = true ∧
        HostReg.resX ≠ .ready) := by decide

end Sys2Proof.Machine.Tests
end

section
/-! What the act of a label never touches, what a command's step therefore leaves alone, and the Host's `issue` (10_state
R42). -/

namespace Sys2Proof.Machine

/-! ### What an act leaves alone -/

/-- The two states differ at most in the registers an act may write: caches, results, calibration registers and BUF. SEQ,
STATUS and the trace are the business of `perform`, `resume` and `complete`; the scripts of the agents, the parameters and
the count of resets are outside the block. -/
structure SameControl (s t : State) : Prop where
  seq : t.seq = s.seq
  status : t.status = s.status
  trace : t.trace = s.trace
  params : t.params = s.params
  host : t.host = s.host
  transport : t.transport = s.transport
  timer : t.timer = s.timer
  resets : t.resets = s.resets

/-- An act's own function on states touches none of the control fields. -/
def Act.KeepsControl : Act → Prop
  | .prim _ k => ∀ v s, SameControl s (k v s).1
  | .compute f => ∀ s, SameControl s (f s).1
  | .finish f _ => ∀ s, SameControl s (f s)

theorem SameControl.refl (s : State) : SameControl s s := by constructor <;> rfl

theorem sameControl_cacheMode (s : State) (mask : Byte) (code : Code) : SameControl s (s.cacheMode mask code) := by
  constructor <;> simp

theorem sameControl_takeAxes (s : State) (code : Code) : SameControl s (s.takeAxes code) := by
  constructor <;> simp

theorem sameControl_takeCalibration (s : State) (code : Code) : SameControl s (s.takeCalibration code) := by
  constructor <;> simp

theorem sameControl_startCalibration (s : State) : SameControl s s.startCalibration := by
  constructor <;> simp

theorem memWrite_keepsControl {P : Params} {reg : Byte} {bs : List Byte} {here : WPos → Label} {ret : Code → Label}
    {w : WPos} : (memWrite P reg bs here ret w).KeepsControl := by
  obtain ⟨q, k, hk, -, spec⟩ := memWrite_spec P reg bs here ret w
  rw [hk]
  intro v s
  rw [(spec v s).1]
  exact .refl s

theorem memRead_keepsControl {P : Params} {reg : Byte} {here : RPos → Label} {ret : Code → Label} {r : RPos} :
    (memRead P reg here ret r).KeepsControl := by
  obtain ⟨q, k, hk, -, spec⟩ := memRead_spec P reg here ret r
  rw [hk]
  intro v s
  rw [(spec v s).1]
  constructor <;> rfl

section
variable {P : Params} {p : Label} {a : Act}

theorem setmodeProgram_keepsControl {mask : Byte} (h : setmodeProgram P mask p = some a) : a.KeepsControl := by
  unfold setmodeProgram at h
  split at h <;> cases h
  · exact memWrite_keepsControl
  · exact fun s => sameControl_cacheMode s mask _

theorem getmodeProgram_keepsControl (h : getmodeProgram p = some a) : a.KeepsControl := by
  unfold getmodeProgram at h
  split at h <;> cases h
  exact fun s => by constructor <;> rfl

theorem getsensProgram_keepsControl (h : getsensProgram p = some a) : a.KeepsControl := by
  unfold getsensProgram at h
  split at h <;> cases h
  exact fun s => by constructor <;> rfl

theorem orientProgram_keepsControl (h : orientProgram P p = some a) : a.KeepsControl := by
  unfold orientProgram at h
  split at h <;> cases h
  · exact memRead_keepsControl
  · exact fun s => sameControl_takeAxes s _

theorem initProgram_keepsControl {cfg : Byte} (h : initProgram P cfg p = some a) : a.KeepsControl := by
  cases p with
  | start | write _ | read _ | clear _ | enable _ => cases h
  | mode _ | c3 _ _ _ => cases h; exact memWrite_keepsControl
  | c1 _ _ => cases h; exact memRead_keepsControl
  | modeRet st => cases h; exact fun s => sameControl_cacheMode s cfg st
  | target _ => cases h; exact sameControl_startCalibration
  | c1Ret _ code => cases h; exact fun s => sameControl_takeCalibration s code
  | loop _ | c2 _ | finish _ => cases h; exact SameControl.refl
  | c4 _ => cases h; exact fun _ s => by constructor <;> rfl

theorem setintProgram_keepsControl {mask : Byte} (h : setintProgram P mask p = some a) : a.KeepsControl := by
  unfold setintProgram at h
  split at h <;> cases h
  · exact memWrite_keepsControl
  · exact SameControl.refl

theorem clrlatchProgram_keepsControl (h : clrlatchProgram P p = some a) : a.KeepsControl := by
  unfold clrlatchProgram at h
  split at h <;> cases h
  · exact memWrite_keepsControl
  · exact memWrite_keepsControl
  · exact SameControl.refl

theorem illegalProgram_keepsControl (h : illegalProgram p = some a) : a.KeepsControl := by
  unfold illegalProgram at h
  split at h <;> cases h
  exact SameControl.refl

theorem program_keepsControl {c : Command} (h : program c P p = some a) : a.KeepsControl := by
  cases c with
  | illegal => exact illegalProgram_keepsControl h
  | instr i =>
    cases i with
    | setmode mask => exact setmodeProgram_keepsControl h
    | getmode => exact getmodeProgram_keepsControl h
    | getsens => exact getsensProgram_keepsControl h
    | orient => exact orientProgram_keepsControl h
    | init cfg => exact initProgram_keepsControl h
    | setint mask => exact setintProgram_keepsControl h
    | clrlatch => exact clrlatchProgram_keepsControl h
end

/-! ### What a command's step leaves alone -/

section
variable {c : Command} {s t : State}

/-- The Host's script is read by `step` and `advance` only. -/
theorem execCommand_host (h : execCommand c s = .next t) : t.host = s.host := by
  rcases execCommand_cases h with ⟨p, q, k, -, -, rfl⟩ | ⟨p, f, -, ha, rfl⟩ | ⟨p, f, code, -, ha, rfl⟩ |
    ⟨p, q, k, -, -, -, rfl⟩ | ⟨p, ms, k, rest, -, ha, -, rfl⟩ | ⟨p, q, k, v, rest, -, ha, -, -, rfl⟩
  · rfl
  · exact (program_keepsControl ha s).host
  · exact (program_keepsControl ha s).host
  · rfl
  · exact (program_keepsControl ha 0 _).host
  · exact (program_keepsControl ha v _).host

/-- A command goes on until it completes: no step of it starts another one (R22, R43). -/
theorem execCommand_seq (h : execCommand c s = .next t) : t.seq.command = some c ∨ t.seq = .idle := by
  rcases execCommand_cases h with ⟨p, q, k, -, -, rfl⟩ | ⟨p, f, -, -, rfl⟩ | ⟨p, f, code, -, -, rfl⟩ |
    ⟨p, q, k, hs, -, -, rfl⟩ | ⟨p, ms, k, rest, -, -, -, rfl⟩ | ⟨p, q, k, v, rest, -, -, -, -, rfl⟩
  · exact .inl rfl
  · exact .inl rfl
  · exact .inr rfl
  · exact .inl (by rw [hs]; rfl)
  · exact .inl rfl
  · exact .inl rfl
end

/-! ### The Host's `issue` -/

section
variable {s : State} {w : Word} {rest : List HostAct}

theorem State.ready_iff : s.ready = true ↔ s.seq = .idle := by simp [State.ready]

theorem noReset_of_issue (h : s.host = .issue w :: rest) : s.noReset := by simp [State.noReset, h]

/-- An idle block takes the word the Host issues (R42). -/
theorem advance_issue (hs : s.seq = .idle) (hh : s.host = .issue w :: rest) :
    advance s = .next ({ s with host := rest }.accept w) := by
  simp [advance, hs, hh]

/-- A busy block's step is its command's. -/
theorem advance_busy {t : State} (hb : s.seq ≠ .idle) (h : advance s = .next t) :
    ∃ c, s.seq.command = some c ∧ execCommand c s = .next t := by
  rcases advance_cases h with ⟨hs, -⟩ | ⟨hs, -⟩ | hc
  · exact absurd hs hb
  · exact absurd hs hb
  · exact hc
end

/-- Settles O6: the step of an idle block is `accept`, and a busy one's is its command's, which reads no act of the Host. -/
theorem issueIsTakenOnlyWhenReady : Obligations.IssueIsTakenOnlyWhenReady := by
  intro s w rest hh
  have hstep : step s = advance s := step_noReset (noReset_of_issue hh)
  refine ⟨fun hready => ?_, fun hbusy t ht => ?_⟩
  · rw [hstep, advance_issue (State.ready_iff.mp hready) hh]
    rfl
  · have hseq : s.seq ≠ .idle := fun hs => by simp [State.ready_iff.mpr hs] at hbusy
    obtain ⟨c, hc, hexec⟩ := advance_busy hseq (hstep ▸ ht)
    refine ⟨execCommand_host hexec, ?_⟩
    rw [hc, State.ready_iff]
    exact execCommand_seq hexec

end Sys2Proof.Machine
end

section
/-! Command words: a word legal to the decoder is a command's encoding (30_encoding R73, R77), and so is a word that selects a
row of the opcode map (R74). -/

namespace Sys2Proof

section
variable {w : Word} {i : Instr}

/-! ### Words in numbers -/

@[simp] theorem rsvField_toNat (w : Word) : (rsvField w).toNat = w.toNat / 4096 := by
  have := w.isLt
  simp only [rsvField, BitVec.extractLsb'_toNat, Nat.shiftRight_eq_div_pow]
  omega

@[simp] theorem opField_toNat (w : Word) : (opField w).toNat = w.toNat / 256 % 16 := by
  simp [opField, Nat.shiftRight_eq_div_pow]

@[simp] theorem immField_toNat (w : Word) : (immField w).toNat = w.toNat % 256 := by
  simp [immField]

/-- The opcode is the high byte of a command's word and the operand the low one (R77). -/
theorem encode_toNat (i : Instr) : (encode i).toNat = i.opcode.toNat * 256 + i.operand.toNat := by
  rw [encode, BitVec.toNat_append, ← Nat.shiftLeft_add_eq_or_of_lt i.operand.isLt, Nat.shiftLeft_eq]

theorem eq_encode_iff_toNat : w = encode i ↔ w.toNat = i.opcode.toNat * 256 + i.operand.toNat := by
  rw [← encode_toNat, BitVec.toNat_inj]

theorem immField_encode (i : Instr) : immField (encode i) = i.operand :=
  BitVec.extractLsb'_append_eq_right

/-! ### Decoding and encoding -/

/-- A word whose reserved bits are 0 and whose other fields are a command's is the command's word. -/
theorem eq_encode_of_fields (hrsv : rsvField w = 0) (hop : (opField w).toNat = i.opcode.toNat)
    (himm : immField w = i.operand) : w = encode i := by
  have hrsv : w.toNat / 4096 = 0 := by rw [← rsvField_toNat, hrsv]; rfl
  rw [opField_toNat] at hop
  rw [eq_encode_iff_toNat, ← hop, ← himm, immField_toNat]
  omega

theorem noOperand_eq_ok_iff {imm : Byte} {j : Instr} : noOperand imm i = .ok j ↔ imm = 0 ∧ i = j := by
  unfold noOperand
  split
  next himm => simp only [himm, true_and, Except.ok.injEq]
  next himm => simp only [himm, false_and, reduceCtorEq]

/-- The decoder drops no bit of a legal word. -/
theorem eq_encode_of_decodeWord (h : decodeWord w = .ok i) : w = encode i := by
  unfold decodeWord at h
  split at h
  · cases h
  next hrsv =>
    have hrsv : rsvField w = 0 := not_not.mp hrsv
    dsimp only at h
    split at h
    case h_1 hop | h_5 hop | h_6 hop => cases h; exact eq_encode_of_fields hrsv hop rfl
    case h_2 hop | h_3 hop | h_4 hop | h_7 hop =>
      obtain ⟨himm, rfl⟩ := noOperand_eq_ok_iff.mp h
      exact eq_encode_of_fields hrsv hop himm
    case h_8 => cases h

theorem decodeWord_encode (i : Instr) : decodeWord (encode i) = .ok i := by
  cases i with
  | setmode imm | init imm | setint imm => revert imm; decide
  | getmode | getsens | orient | clrlatch => rfl

theorem decode_eq_instr_iff : decode w = .instr i ↔ decodeWord w = .ok i := by
  cases h : decodeWord w <;> simp [decode, h]

/-- A word is illegal when it is no command's word. -/
theorem decode_eq_illegal_iff : decode w = .illegal ↔ ¬ ∃ i, w = encode i := by
  constructor
  · rintro h ⟨i, rfl⟩
    rw [decode_eq_instr_iff.mpr (decodeWord_encode i)] at h
    cases h
  · intro h
    cases hd : decode w with
    | illegal => rfl
    | instr i => exact absurd ⟨i, eq_encode_of_decodeWord (decode_eq_instr_iff.mp hd)⟩ h

/-! ### The rows of the opcode map -/

theorem rowOfWord (i : Instr) : Laws.RowOfWord.Statement i := by
  cases i with
  | setmode mask => exact Laws.RowOfWord.setmode mask
  | getmode => exact Laws.RowOfWord.getmode
  | getsens => exact Laws.RowOfWord.getsens
  | orient => exact Laws.RowOfWord.orient
  | init cfg => exact Laws.RowOfWord.init cfg
  | setint mask => exact Laws.RowOfWord.setint mask
  | clrlatch => exact Laws.RowOfWord.clrlatch

theorem highByte_append_immField (w : Word) : w.extractLsb' 8 8 ++ immField w = w :=
  BitVec.extractLsb'_append_extractLsb' (w := 8) (len := 8) (x := w)

/-- A row whose mask is 0xFF00 fixes the high byte of the words that select it. -/
theorem eq_append_immField_of_and_highMask {op : Byte} (h : w &&& 0xFF00 = op ++ (0 : Byte)) : w = op ++ immField w := by
  have hop : w.extractLsb' 8 8 = op :=
    calc w.extractLsb' 8 8 = w.extractLsb' 8 8 &&& BitVec.allOnes 8 := BitVec.and_allOnes.symm
      _ = (w &&& 0xFF00).extractLsb' 8 8 := by rw [BitVec.extractLsb'_and]; rfl
      _ = op := by rw [h, BitVec.extractLsb'_append_eq_left]
  rw [← hop, highByte_append_immField]

/-- A row whose mask is 0xFFFF fixes the word that selects it. -/
theorem eq_of_and_fullMask {p : Word} (h : w &&& 0xFFFF = p) : w = p :=
  BitVec.and_allOnes.symm.trans h

/-- A word that selects a row is the word of the row's command. -/
theorem eq_encode_of_selects {r : OpcodeRow} (hr : r ∈ opcodeMap) (h : r.selects w = true) :
    w = encode (Machine.Mnemonic.instr r.mnemonic (immField w)) := by
  have hsel : w &&& r.mask = r.pattern := eq_of_beq h
  simp only [opcodeMap, List.mem_cons, List.not_mem_nil, or_false] at hr
  rcases hr with rfl | rfl | rfl | rfl | rfl | rfl | rfl
  · exact eq_append_immField_of_and_highMask (op := 1) hsel
  · exact (eq_of_and_fullMask hsel).trans (by decide : _ = encode .getmode)
  · exact (eq_of_and_fullMask hsel).trans (by decide : _ = encode .getsens)
  · exact (eq_of_and_fullMask hsel).trans (by decide : _ = encode .orient)
  · exact eq_append_immField_of_and_highMask (op := 5) hsel
  · exact eq_append_immField_of_and_highMask (op := 6) hsel
  · exact (eq_of_and_fullMask hsel).trans (by decide : _ = encode .clrlatch)

/-! ### The ranges of the legal words -/

theorem toNat_eq_add_immField {op : Nat} (hlo : op * 256 ≤ w.toNat) (hhi : w.toNat ≤ op * 256 + 255) :
    w.toNat = op * 256 + (immField w).toNat := by
  rw [immField_toNat]
  omega

/-- The commands' words by their ranges: 256 words each for SETMODE, INIT and SETINT, one word for each other command
(R74). -/
theorem exists_eq_encode_iff :
    (∃ i, w = encode i) ↔
      (0x0100 ≤ w.toNat ∧ w.toNat ≤ 0x01FF) ∨ w.toNat = 0x0200 ∨ w.toNat = 0x0300 ∨ w.toNat = 0x0400 ∨
        (0x0500 ≤ w.toNat ∧ w.toNat ≤ 0x05FF) ∨ (0x0600 ≤ w.toNat ∧ w.toNat ≤ 0x06FF) ∨ w.toNat = 0x0700 := by
  simp only [eq_encode_iff_toNat]
  constructor
  · rintro ⟨i, h⟩
    cases i with
    | setmode imm | init imm | setint imm =>
      have := imm.isLt
      simp only [Instr.opcode, Instr.operand, BitVec.ofNat_eq_ofNat, BitVec.toNat_ofNat] at h
      omega
    | getmode | getsens | orient | clrlatch =>
      simp only [Instr.opcode, Instr.operand, BitVec.ofNat_eq_ofNat, BitVec.toNat_ofNat] at h
      omega
  · rintro (⟨hlo, hhi⟩ | h | h | h | ⟨hlo, hhi⟩ | ⟨hlo, hhi⟩ | h)
    · exact ⟨.setmode (immField w), toNat_eq_add_immField (op := 1) hlo hhi⟩
    · exact ⟨.getmode, h⟩
    · exact ⟨.getsens, h⟩
    · exact ⟨.orient, h⟩
    · exact ⟨.init (immField w), toNat_eq_add_immField (op := 5) hlo hhi⟩
    · exact ⟨.setint (immField w), toNat_eq_add_immField (op := 6) hlo hhi⟩
    · exact ⟨.clrlatch, h⟩

end

/-- Settles O3: a legal word is its command's, which selects one row; a word that selects a row is a command's, so it is not
illegal. -/
theorem legalWordsSelectOneRow : Obligations.LegalWordsSelectOneRow := by
  refine ⟨fun w i h => ?_, fun w h => ?_⟩
  · obtain rfl := eq_encode_of_decodeWord (decode_eq_instr_iff.mp h)
    obtain ⟨r, hrow, hinstr⟩ := rowOfWord i
    exact ⟨r, hrow, by rw [immField_encode, hinstr]⟩
  · rw [List.filter_eq_nil_iff]
    intro r hr hsel
    exact decode_eq_illegal_iff.mp h ⟨_, eq_encode_of_selects hr hsel⟩

/-- Settles O4: the ranges are what the ranges of the commands' words leave. -/
theorem illegalWordsAreTheReservedOnes : Obligations.IllegalWordsAreTheReservedOnes := by
  intro w
  rw [decode_eq_illegal_iff, exists_eq_encode_iff]
  omega

end Sys2Proof
end

section
/-! What a held primitive says of the program it stands in, and the device address the register transport names (40_transport
R101). -/

namespace Sys2Proof.Machine

/-! ### Where a primitive comes from -/

/-- A command's step leaves the block holding for a primitive only at the label of its own program that issues it, whether
the step issued it or holds on for its answer (R39). -/
theorem execCommand_wait {c c' : Command} {s t : State} {p : Label} {q : Prim} (h : execCommand c s = .next t)
    (ht : t.seq = .wait c' p q) : c' = c ∧ ∃ k, program c s.params p = some (.prim q k) := by
  rcases execCommand_cases h with ⟨p', q', k, -, ha, rfl⟩ | ⟨p', f, -, -, rfl⟩ | ⟨p', f, code, -, -, rfl⟩ |
    ⟨p', q', k, hs, ha, -, rfl⟩ | ⟨p', ms, k, rest, -, -, -, rfl⟩ | ⟨p', q', k, v, rest, -, -, -, -, rfl⟩
  · cases ht
    exact ⟨rfl, k, ha⟩
  · cases ht
  · cases ht
  · cases hs.symm.trans ht
    exact ⟨rfl, k, ha⟩
  · cases ht
  · cases ht

section
variable {c : Command} {P : Params} {p : Label} {q : Prim} {k : Byte → State → State × Label}

/-- Every primitive of a command is one of `MemWrite`, one of `MemRead`, or the calibration loop's WAIT (R100, R160). -/
theorem program_prim_cases (h : program c P p = some (.prim q k)) :
    (∃ reg bs here ret w, memWrite P reg bs here ret w = .prim q k) ∨
      (∃ reg here ret r, memRead P reg here ret r = .prim q k) ∨ q = .wait P.calDelayMs := by
  cases c with
  | illegal => cases p <;> cases h
  | instr i =>
    cases i with
    | getmode | getsens => cases p <;> cases h
    | setmode _ | setint _ =>
      cases p with
      | write w => exact .inl ⟨_, _, _, _, w, Option.some.inj h⟩
      | _ => cases h
    | clrlatch =>
      cases p with
      | clear w | enable w => exact .inl ⟨_, _, _, _, w, Option.some.inj h⟩
      | _ => cases h
    | orient =>
      cases p with
      | read r => exact .inr (.inl ⟨_, _, _, r, Option.some.inj h⟩)
      | _ => cases h
    | init cfg =>
      cases p with
      | mode w | c3 _ _ w => exact .inl ⟨_, _, _, _, w, Option.some.inj h⟩
      | c1 _ r => exact .inr (.inl ⟨_, _, _, r, Option.some.inj h⟩)
      | c4 _ => cases h; exact .inr (.inr rfl)
      | _ => cases h

/-! ### The device address -/

/-- R101 of one primitive, with the count R103 gives a REQUEST. -/
def Prim.NamesDevice (P : Params) : Prim → Prop
  | .begin a => a = P.devAddr
  | .request a n => a = P.devAddr ∧ n = 6
  | _ => True

theorem memWrite_namesDevice {reg : Byte} {bs : List Byte} {here : WPos → Label} {ret : Code → Label} {w : WPos}
    (h : memWrite P reg bs here ret w = .prim q k) : q.NamesDevice P := by
  cases w with
  | w1 => cases h; rfl
  | w2 | w3 | w4 => cases h; trivial

theorem memRead_namesDevice {reg : Byte} {here : RPos → Label} {ret : Code → Label} {r : RPos}
    (h : memRead P reg here ret r = .prim q k) : q.NamesDevice P := by
  cases r with
  | r1 => cases h; rfl
  | r4 => cases h; exact ⟨rfl, rfl⟩
  | r2 | r3 | r5 _ | r6 _ => cases h; trivial

theorem program_namesDevice (h : program c P p = some (.prim q k)) : q.NamesDevice P := by
  rcases program_prim_cases h with ⟨_, _, _, _, _, hw⟩ | ⟨_, _, _, _, hr⟩ | rfl
  · exact memWrite_namesDevice hw
  · exact memRead_namesDevice hr
  · trivial
end

/-- Settles O40: a held primitive is issued by a label of the command's program, and there the two procedures of the
register transport alone issue BEGIN and REQUEST. -/
theorem busNamesOnlyTheDevice : Obligations.BusNamesOnlyTheDevice := by
  intro c c' s t p q h ht
  obtain ⟨-, k, hk⟩ := execCommand_wait h ht
  have hq : q.NamesDevice s.params := program_namesDevice hk
  exact ⟨by rintro a rfl; exact hq, by rintro a n rfl; exact hq⟩

end Sys2Proof.Machine
end

section
/-! Completions: the step at a label whose act is a completion (10_state R43), and the two commands that are nothing else
(41_mode_codec R124, R125). -/

namespace Sys2Proof

/-- A command's own word decodes to it (R73). -/
theorem decode_encode (i : Instr) : decode (encode i) = .instr i :=
  decode_eq_instr_iff.mpr (decodeWord_encode i)

namespace Machine

/-- A command whose label's act is a completion makes its own register writes, then `finish(code)`, in one step (R43). -/
theorem exec_finish {i : Instr} {s : State} {p : Label} {f : State → State} {code : Code}
    (hs : s.seq = .run (.instr i) p) (ha : program (.instr i) s.params p = some (.finish f code)) :
    exec i s = .next ((f s).complete code) := by
  rw [exec_eq, drive_run hs ha, State.perform]

/-- Settles O21: GETMODE's start label is its completion. -/
theorem getmodeReportsTheMode : Obligations.GetmodeReportsTheMode := by
  refine ⟨decode_encode .getmode, rfl, fun s hs => ?_⟩
  rw [exec_finish hs rfl, State.complete]

/-- Settles O22: GETSENS's start label is its completion, and the four values are those of `decodeScale`. -/
theorem getsensReportsTheScale : Obligations.GetsensReportsTheScale := by
  refine ⟨decode_encode .getsens, rfl, fun s hs => ?_⟩
  rw [exec_finish hs rfl, State.complete, decodeScale]

end Machine
end Sys2Proof
end

section
/-! The three cases of a reconstructed axis value (42_orientation R144), by the bits of its high byte: where bit 1 is set,
the value is a 10-bit field extended; where it is clear, the value is the two bytes as they stand. -/

namespace Sys2Proof.Machine

/-! ### Two's-complement values -/

theorem signed16_eq_toInt (v : Word) : signed16 v = v.toInt := by
  rw [signed16, BitVec.toInt_eq_msb_cond, BitVec.msb_eq_getLsbD_last]
  rfl

theorem signed16_append (h l : Byte) : signed16 (h ++ l) = h.toInt * 256 + l.toNat := by
  rw [signed16_eq_toInt, BitVec.toInt_append, if_neg (by decide), mul_comm]
  rfl

theorem signed16_append_of_msb_false {h : Byte} (hmsb : h.msb = false) (l : Byte) :
    signed16 (h ++ l) = h.toNat * 256 + l.toNat := by
  rw [signed16_append, BitVec.toInt_eq_toNat_of_msb hmsb]

/-- The sign of two bytes is the sign of the high one: the low byte adds less than 256. -/
theorem signed16_append_neg_of_msb_true {h : Byte} (hneg : h.msb = true) (l : Byte) : signed16 (h ++ l) < 0 := by
  have hh : h.toInt < 0 := BitVec.toInt_neg_of_msb_true hneg
  have hl : l.toNat < 256 := l.isLt
  rw [signed16_append]
  omega

/-! ### The high byte's fields -/

section
variable {h : Byte}

/-- Bits 7:2 and bits 1:0 make up a byte. -/
theorem bits72_append_bits10 (h : Byte) : h.extractLsb' 2 6 ++ h.extractLsb' 0 2 = h :=
  BitVec.extractLsb'_append_extractLsb' (w := 6) (len := 2) (x := h)

theorem bits72_toNat (h : Byte) : (h.extractLsb' 2 6).toNat = h.toNat / 4 := by
  have := h.isLt
  rw [BitVec.extractLsb'_toNat, Nat.shiftRight_eq_div_pow]
  omega

theorem bits72_eq_zero_iff : h.extractLsb' 2 6 = 0 ↔ h.toNat < 4 := by
  rw [← BitVec.toNat_inj, bits72_toNat]
  exact Nat.div_eq_zero_iff_lt (by decide)

theorem bit1_eq_false_iff : h.getLsbD 1 = false ↔ h.toNat / 2 % 2 = 0 := by
  rw [← BitVec.testBit_toNat, Nat.testBit_eq_decide_div_mod_eq, decide_eq_false_iff_not]
  omega

/-- The OR with 0xFC sets bits 7:2 and keeps bits 1:0 (R140). -/
theorem or_0xFC (h : Byte) : h ||| 0xFC = BitVec.allOnes 6 ++ h.extractLsb' 0 2 :=
  calc h ||| 0xFC = (h.extractLsb' 2 6 ++ h.extractLsb' 0 2) ||| (BitVec.allOnes 6 ++ 0#2) := by
        rw [bits72_append_bits10]; rfl
    _ = BitVec.allOnes 6 ++ h.extractLsb' 0 2 := by rw [BitVec.or_append, BitVec.or_allOnes, BitVec.or_zero]

/-! ### The reconstructed value -/

/-- Bit 1 of the high byte is the sign of the 10-bit field. -/
theorem bits10_append_msb (l h : Byte) : (h.extractLsb' 0 2 ++ l).msb = h.getLsbD 1 := by
  rw [BitVec.msb_append, if_neg (by decide), BitVec.msb_eq_getLsbD_last, BitVec.getLsbD_extractLsb']
  rfl

theorem recon_of_bit1_set (l : Byte) (hbit : h.getLsbD 1 = true) :
    recon l h = (h.extractLsb' 0 2 ++ l).signExtend 16 := by
  rw [recon, if_pos hbit, or_0xFC, BitVec.append_assoc, BitVec.signExtend_eq_append_of_le (by decide),
    bits10_append_msb, if_pos hbit]

theorem recon_of_bit1_clear (l : Byte) (hbit : h.getLsbD 1 = false) : recon l h = h ++ l := by
  rw [recon, if_neg (Bool.eq_false_iff.mp hbit)]

/-- Case (a): a negative 10-bit value. -/
theorem signed16_recon_of_bit1_set (l : Byte) (hbit : h.getLsbD 1 = true) :
    -512 ≤ signed16 (recon l h) ∧ signed16 (recon l h) ≤ -1 := by
  have hneg : (h.extractLsb' 0 2 ++ l).toInt < 0 := BitVec.toInt_neg_of_msb_true ((bits10_append_msb l h).trans hbit)
  rw [recon_of_bit1_set l hbit, signed16_eq_toInt, BitVec.toInt_signExtend_of_le (by decide)]
  exact ⟨BitVec.le_toInt _, Int.le_sub_one_of_lt hneg⟩

/-- Case (b): bit 0 of the high byte is all there is of it. -/
theorem signed16_recon_of_bits72_eq_zero (l : Byte) (hbit : h.getLsbD 1 = false) (htop : h.extractLsb' 2 6 = 0) :
    signed16 (recon l h) = (h.toNat % 2 : Nat) * 256 + l.toNat := by
  have hh : h.toNat < 4 := bits72_eq_zero_iff.mp htop
  have hb : h.toNat / 2 % 2 = 0 := bit1_eq_false_iff.mp hbit
  have hmsb : h.msb = false := BitVec.msb_eq_false_iff_two_mul_lt.mpr (by omega)
  rw [recon_of_bit1_clear l hbit, signed16_append_of_msb_false hmsb]
  omega

/-- Case (c) with bit 7 clear. -/
theorem le_signed16_recon_of_bits72_ne_zero (l : Byte) (hbit : h.getLsbD 1 = false) (htop : h.extractLsb' 2 6 ≠ 0)
    (hmsb : h.msb = false) : 1024 ≤ signed16 (recon l h) := by
  have hh : ¬ h.toNat < 4 := fun hlt => htop (bits72_eq_zero_iff.mpr hlt)
  rw [recon_of_bit1_clear l hbit, signed16_append_of_msb_false hmsb]
  omega
end

/-- Settles O38: bit 1 of the high byte selects the extended field or the two bytes as they stand, and these are valued by
bits 7:2 and by bit 7. -/
theorem axisValueHasThreeCases : Obligations.AxisValueHasThreeCases := by
  intro l h
  refine ⟨fun hbit => ?_, fun hbit htop => ?_, fun hbit htop => ?_⟩
  · exact ⟨recon_of_bit1_set l hbit, signed16_recon_of_bit1_set l hbit⟩
  · have hl : l.toNat < 256 := l.isLt
    have hval := signed16_recon_of_bits72_eq_zero l hbit htop
    exact ⟨hval, by omega, by omega⟩
  · rw [← BitVec.msb_eq_getLsbD_last]
    refine ⟨recon_of_bit1_clear l hbit, le_signed16_recon_of_bits72_ne_zero l hbit htop, fun hneg => ?_⟩
    rw [recon_of_bit1_clear l hbit]
    exact signed16_append_neg_of_msb_true hneg l

end Sys2Proof.Machine
end

section
/-! The invariant (10_state sections 2 to 4): what it asks at a label, that every act of a command's labels keeps it, and that
a command at one of its labels always has a step. -/

namespace Sys2Proof

/-- Settles O2: the decoder's two directions. -/
theorem decodeInvertsEncode : Obligations.DecodeInvertsEncode :=
  fun _ i => ⟨eq_encode_of_decodeWord, fun h => h ▸ decodeWord_encode i⟩

namespace Machine

/-! ### The invariant at a label -/

/-- The ranges of SENS_CACHE and CAL_I (R25, R30). -/
def State.RegsOk (s : State) : Prop := s.sensCache &&& 0xF3 = 0 ∧ s.calI ≤ s.params.calIterations

/-- What the invariant asks, STATUS aside, where the command `c` is at the label `p`. It reads neither SEQ nor BUF, the trace
or the agents' scripts. -/
def State.FitsAt (s : State) (c : Command) (p : Label) : Prop :=
  s.RegsOk ∧ (program c s.params p).isSome = true ∧ p.codesOk ∧ s.loopOk p

section
variable {s t : State} {c : Command} {p : Label} {q : Prim}

theorem Inv.regsOk (h : Inv s) : s.RegsOk := ⟨h.sens_legal, h.calI_range⟩

theorem inv_of_idle (hs : s.seq = .idle) (hregs : s.RegsOk) (hst : codeLegal s.status = true) : Inv s where
  seq_ok := by rw [hs]; trivial
  sens_legal := hregs.1
  status_legal := hst
  calI_range := hregs.2
  codes_ok p hp := by rw [hs] at hp; cases hp
  loop_ok p hp := by rw [hs] at hp; cases hp

theorem inv_of_run (hs : s.seq = .run c p) (hfit : s.FitsAt c p) (hst : codeLegal s.status = true) : Inv s := by
  obtain ⟨hregs, hprog, hcodes, hloop⟩ := hfit
  exact {
    seq_ok := by rw [hs]; exact hprog
    sens_legal := hregs.1
    status_legal := hst
    calI_range := hregs.2
    codes_ok := fun p' hp => by rw [hs] at hp; cases hp; exact hcodes
    loop_ok := fun p' hp => by rw [hs] at hp; cases hp; exact hloop }

theorem inv_of_wait (hs : s.seq = .wait c p q) (hq : (program c s.params p).bind Act.primitive = some q)
    (hfit : s.FitsAt c p) (hst : codeLegal s.status = true) : Inv s := by
  obtain ⟨hregs, -, hcodes, hloop⟩ := hfit
  exact {
    seq_ok := by rw [hs]; exact hq
    sens_legal := hregs.1
    status_legal := hst
    calI_range := hregs.2
    codes_ok := fun p' hp => by rw [hs] at hp; cases hp; exact hcodes
    loop_ok := fun p' hp => by rw [hs] at hp; cases hp; exact hloop }

theorem Inv.fitsAt_run (h : Inv s) (hs : s.seq = .run c p) : s.FitsAt c p :=
  ⟨h.regsOk, by have := h.seq_ok; rwa [hs] at this, h.codes_ok p (by rw [hs]; rfl), h.loop_ok p (by rw [hs]; rfl)⟩

theorem Inv.fitsAt_wait {a : Act} (h : Inv s) (hs : s.seq = .wait c p q) (ha : program c s.params p = some a) :
    s.FitsAt c p :=
  ⟨h.regsOk, by rw [ha]; rfl, h.codes_ok p (by rw [hs]; rfl), h.loop_ok p (by rw [hs]; rfl)⟩

theorem Inv.withHost (h : Inv s) (acts : List HostAct) : Inv { s with host := acts } :=
  ⟨h.seq_ok, h.sens_legal, h.status_legal, h.calI_range, h.codes_ok, h.loop_ok⟩

/-- Every command starts at a label of its own, where no local stands yet (R42). -/
theorem State.RegsOk.fitsAt_start (h : s.RegsOk) (c : Command) : s.FitsAt c (startLabel c) := by
  rcases c with i | _
  · cases i <;> exact ⟨h, rfl, trivial, trivial⟩
  · exact ⟨h, rfl, trivial, trivial⟩
end

/-! ### The acts keep it -/

theorem codeLegal_of_lt {code : Code} (h : code.toNat < 8) : codeLegal code = true := by
  simp [codeLegal, h]

theorem sensField_legal (mask : Byte) : sensField mask &&& 0xF3 = 0 := by
  rw [sensField, BitVec.and_assoc]
  exact BitVec.and_zero

/-- From `s` at its label, the act leads to where the invariant allows it. -/
def Act.KeepsInv (c : Command) (s : State) : Act → Prop
  | .prim _ k => ∀ v, (k v s).1.FitsAt c (k v s).2
  | .compute f => (f s).1.FitsAt c (f s).2
  | .finish f code => (f s).RegsOk ∧ codeLegal code = true

section
variable {s : State} {c : Command} {p : Label} {a : Act}

theorem State.RegsOk.cacheMode (h : s.RegsOk) (mask : Byte) (code : Code) : (s.cacheMode mask code).RegsOk := by
  refine ⟨?_, by simpa using h.2⟩
  rw [State.cacheMode_sensCache]
  split
  · exact sensField_legal mask
  · exact h.1

theorem State.RegsOk.takeAxes (h : s.RegsOk) (code : Code) : (s.takeAxes code).RegsOk := by
  simpa [State.RegsOk] using h

theorem State.RegsOk.takeCalibration (h : s.RegsOk) (code : Code) : (s.takeCalibration code).RegsOk := by
  simpa [State.RegsOk] using h

theorem memWrite_keepsInv {P : Params} {reg : Byte} {bs : List Byte} {here : WPos → Label} {ret : Code → Label} {w : WPos}
    (hhere : ∀ w, s.FitsAt c (here w)) (hret : ∀ code : Code, code.toNat < 8 → s.FitsAt c (ret code)) :
    (memWrite P reg bs here ret w).KeepsInv c s := by
  obtain ⟨q, k, hk, -, spec⟩ := memWrite_spec P reg bs here ret w
  rw [hk]
  intro v
  obtain ⟨hkeep, ⟨w', hnext⟩ | ⟨code, hcode, hnext⟩⟩ := spec v s
  · rw [hkeep, hnext]; exact hhere w'
  · rw [hkeep, hnext]; exact hret code hcode

theorem memRead_keepsInv {P : Params} {reg : Byte} {here : RPos → Label} {ret : Code → Label} {r : RPos}
    (hhere : ∀ r, s.FitsAt c (here r)) (hret : ∀ code : Code, code.toNat < 8 → s.FitsAt c (ret code)) :
    (memRead P reg here ret r).KeepsInv c s := by
  obtain ⟨q, k, hk, -, spec⟩ := memRead_spec P reg here ret r
  rw [hk]
  intro v
  obtain ⟨hkeep, ⟨r', hnext⟩ | ⟨code, hcode, hnext⟩⟩ := spec v s
  · rw [hkeep, hnext]; exact hhere r'
  · rw [hkeep, hnext]; exact hret code hcode

/-- INIT's acts: the target is set before the loop and no act of the loop writes SENS_CACHE or CAL_T, C1 ends before C2 takes
the offsets, and the loop's test guards its body (R161 to R166). -/
theorem initProgram_keepsInv {cfg : Byte} (h : s.FitsAt (.instr (.init cfg)) p)
    (ha : initProgram s.params cfg p = some a) : a.KeepsInv (.instr (.init cfg)) s := by
  obtain ⟨hregs, -, hcodes, hloop⟩ := h
  cases p with
  | start | write _ | read _ | clear _ | enable _ => cases ha
  | mode _ =>
    cases ha
    exact memWrite_keepsInv (fun _ => ⟨hregs, rfl, trivial, trivial⟩) fun _ hcode => ⟨hregs, rfl, hcode, trivial⟩
  | modeRet st => cases ha; exact ⟨hregs.cacheMode cfg st, rfl, hcodes, trivial⟩
  | target st => cases ha; exact ⟨⟨hregs.1, Nat.zero_le _⟩, rfl, hcodes, rfl⟩
  | loop st =>
    cases ha
    show s.FitsAt _ (if s.calI < s.params.calIterations then _ else _)
    split
    next hlt => exact ⟨hregs, rfl, hcodes, hloop, hlt⟩
    next => exact ⟨hregs, rfl, hcodes, trivial⟩
  | c1 st _ =>
    cases ha
    exact memRead_keepsInv (fun _ => ⟨hregs, rfl, hcodes, hloop⟩) fun _ hcode => ⟨hregs, rfl, ⟨hcodes, hcode⟩, hloop⟩
  | c1Ret st code =>
    cases ha
    exact ⟨hregs.takeCalibration code, rfl, hcodes.1, by simpa [State.loopOk] using hloop⟩
  | c2 st =>
    cases ha
    obtain ⟨htarget, hlt⟩ := hloop
    exact ⟨hregs, rfl, hcodes, htarget, hlt, rfl⟩
  | c3 st o _ =>
    cases ha
    obtain ⟨htarget, hlt, -⟩ := id hloop
    exact memWrite_keepsInv (fun _ => ⟨hregs, rfl, hcodes, hloop⟩) fun _ _ => ⟨hregs, rfl, hcodes, htarget, hlt⟩
  | c4 st =>
    cases ha
    obtain ⟨htarget, hlt⟩ := hloop
    exact fun _ => ⟨⟨hregs.1, hlt⟩, rfl, hcodes, htarget⟩
  | finish st => cases ha; exact ⟨hregs, codeLegal_of_lt hcodes⟩

theorem program_keepsInv (h : s.FitsAt c p) (ha : program c s.params p = some a) : a.KeepsInv c s := by
  obtain ⟨hregs, -, hcodes, -⟩ := id h
  cases c with
  | illegal =>
    cases p with
    | start => cases ha; exact ⟨hregs, rfl⟩
    | _ => cases ha
  | instr i =>
    cases i with
    | init cfg => exact initProgram_keepsInv h ha
    | getmode | getsens =>
      cases p with
      | start => cases ha; exact ⟨hregs, rfl⟩
      | _ => cases ha
    | setmode mask =>
      cases p with
      | write _ =>
        cases ha
        exact memWrite_keepsInv (fun _ => ⟨hregs, rfl, trivial, trivial⟩) fun _ hcode => ⟨hregs, rfl, hcode, trivial⟩
      | finish code => cases ha; exact ⟨hregs.cacheMode mask code, codeLegal_of_lt hcodes⟩
      | _ => cases ha
    | setint mask =>
      cases p with
      | write _ =>
        cases ha
        exact memWrite_keepsInv (fun _ => ⟨hregs, rfl, trivial, trivial⟩) fun _ hcode => ⟨hregs, rfl, hcode, trivial⟩
      | finish code => cases ha; exact ⟨hregs, codeLegal_of_lt hcodes⟩
      | _ => cases ha
    | orient =>
      cases p with
      | read _ =>
        cases ha
        exact memRead_keepsInv (fun _ => ⟨hregs, rfl, trivial, trivial⟩) fun _ hcode => ⟨hregs, rfl, hcode, trivial⟩
      | finish code => cases ha; exact ⟨hregs.takeAxes code, codeLegal_of_lt hcodes⟩
      | _ => cases ha
    | clrlatch =>
      cases p with
      | clear _ =>
        cases ha
        refine memWrite_keepsInv (fun _ => ⟨hregs, rfl, trivial, trivial⟩) fun _ hcode => ?_
        split
        · exact ⟨hregs, rfl, trivial, trivial⟩
        · exact ⟨hregs, rfl, hcode, trivial⟩
      | enable _ =>
        cases ha
        exact memWrite_keepsInv (fun _ => ⟨hregs, rfl, trivial, trivial⟩) fun _ hcode => ⟨hregs, rfl, hcode, trivial⟩
      | finish code => cases ha; exact ⟨hregs, codeLegal_of_lt hcodes⟩
      | _ => cases ha
end

/-! ### The steps keep it -/

section
variable {s t : State} {c : Command}

theorem execCommand_keepsInv (hinv : Inv s) (h : execCommand c s = .next t) : Inv t := by
  rcases execCommand_cases h with ⟨p, q, k, hs, ha, rfl⟩ | ⟨p, f, hs, ha, rfl⟩ | ⟨p, f, code, hs, ha, rfl⟩ |
    ⟨p, q, k, -, -, -, rfl⟩ | ⟨p, ms, k, rest, hs, ha, -, rfl⟩ | ⟨p, q, k, v, rest, hs, ha, -, -, rfl⟩
  · exact inv_of_wait rfl (by rw [ha]; rfl) (hinv.fitsAt_run hs) hinv.status_legal
  · refine inv_of_run rfl (program_keepsInv (hinv.fitsAt_run hs) ha) ?_
    rw [(program_keepsControl ha s).status]
    exact hinv.status_legal
  · obtain ⟨hregs, hcode⟩ := program_keepsInv (hinv.fitsAt_run hs) ha
    exact inv_of_idle rfl hregs hcode
  · exact hinv
  · refine inv_of_run rfl (program_keepsInv (s := { s with timer := rest }) (hinv.fitsAt_wait hs ha) ha 0) ?_
    rw [(program_keepsControl ha 0 _).status]
    exact hinv.status_legal
  · refine inv_of_run rfl (program_keepsInv (s := { s with transport := rest }) (hinv.fitsAt_wait hs ha) ha v) ?_
    rw [(program_keepsControl ha v _).status]
    exact hinv.status_legal

theorem advance_keepsInv (hinv : Inv s) (h : advance s = .next t) : Inv t := by
  rcases advance_cases h with ⟨-, w, rest, -, rfl⟩ | ⟨-, -, rfl⟩ | ⟨c, -, hexec⟩
  · exact inv_of_run rfl (hinv.regsOk.fitsAt_start (decode w)) hinv.status_legal
  · exact hinv
  · exact execCommand_keepsInv hinv hexec

/-- A draw for SENS_CACHE has only the bits of its field (R25). -/
theorem sensDraw_legal (x : BitVec 2) : x.setWidth 8 <<< 2 &&& (0xF3 : Byte) = 0 := by
  revert x; decide

theorem doReset_regsOk (s : State) : s.doReset.RegsOk :=
  ⟨sensDraw_legal _, Nat.le_of_lt_succ (Nat.mod_lt _ (Nat.succ_pos _))⟩

theorem doReset_inv (s : State) : Inv s.doReset :=
  inv_of_run rfl ((doReset_regsOk s).fitsAt_start (.instr (.init _))) rfl
end

/-- A reset that is due takes the step's place (R207, R240). -/
theorem step_reset {s : State} {rest : List HostAct} (hh : s.host = .reset 0 :: rest) :
    step s = .next { s with host := rest }.doReset := by
  rw [step, hh]

/-- Settles O11: the acts of every label keep the invariant, and a reset and an accepted word establish it at the start of a
command. -/
theorem stepKeepsTheInvariant : Obligations.StepKeepsTheInvariant := by
  intro s t hinv h
  rcases step_cases h with ⟨rest, -, rfl⟩ | ⟨n, rest, -, hadv⟩ | ⟨-, hadv⟩
  · exact doReset_inv _
  · exact advance_keepsInv (hinv.withHost _) hadv
  · exact advance_keepsInv hinv hadv

/-- The registers after power-up are draws within their ranges (R44; log 6). -/
theorem reset_regsOk : State.reset.RegsOk :=
  ⟨sensDraw_legal _, Nat.le_of_lt_succ (Nat.mod_lt _ (Nat.succ_pos _))⟩

/-- Settles O9: the fixed values are those of `State.reset`, the free ones draws within their ranges. -/
theorem resetStateHoldsTheStatedValues : Obligations.ResetStateHoldsTheStatedValues :=
  ⟨rfl, rfl, rfl, rfl, rfl, rfl, rfl, reset_regsOk.1, reset_regsOk.2, rfl⟩

/-- Settles O10: INIT(INIT_CONFIG) is at its start and the draws are within their ranges. -/
theorem resetStateMeetsTheInvariant : Obligations.ResetStateMeetsTheInvariant :=
  inv_of_run rfl (reset_regsOk.fitsAt_start (.instr (.init _))) rfl

/-- Settles O8: a reset that is due is `doReset` in the state that has taken the act from the Host's script. -/
theorem resetRestartsFromAnyState : Obligations.ResetRestartsFromAnyState := by
  intro s rest hh
  obtain ⟨hsens, hcalI⟩ := doReset_regsOk { s with host := rest }
  refine ⟨_, step_reset hh, rfl, rfl, rfl, rfl, rfl, rfl, rfl, hsens, hcalI, List.append_nil _, rfl, rfl, fun hnone => ?_,
    fun q hq => ⟨fun hbus => ?_, fun htimer => ?_⟩⟩
  · simp [State.transportAfterReset, State.timerAfterReset, hnone]
  · simp [State.transportAfterReset, State.timerAfterReset, hq, hbus]
  · simp [State.transportAfterReset, State.timerAfterReset, hq, htimer]

/-! ### A command at its label has a step -/

section
variable {s : State} {c : Command}

/-- The label that issues `q` holds the act that does. -/
theorem exists_prim_of_primitive {P : Params} {p : Label} {q : Prim}
    (h : (program c P p).bind Act.primitive = some q) : ∃ k, program c P p = some (.prim q k) := by
  obtain ⟨a, ha, hq⟩ := Option.bind_eq_some_iff.mp h
  cases a with
  | prim q' k => cases hq; exact ⟨k, ha⟩
  | compute _ | finish _ _ => cases hq

theorem execCommand_answers (hok : s.seq.ok s.params) (hc : s.seq.command = some c) :
    ∃ t, execCommand c s = .next t := by
  rw [execCommand_eq]
  cases hs : s.seq with
  | idle => rw [hs] at hc; cases hc
  | run d p =>
    rw [hs] at hok hc
    cases hc
    obtain ⟨a, ha⟩ := Option.isSome_iff_exists.mp hok
    exact ⟨_, drive_run hs ha⟩
  | wait d p q =>
    rw [hs] at hok hc
    cases hc
    obtain ⟨k, ha⟩ := exists_prim_of_primitive hok
    exact ⟨_, drive_wait hs ha⟩

theorem advance_answers (hok : s.seq.ok s.params) : ∃ t, advance s = .next t := by
  unfold advance
  split
  · split
    · exact ⟨_, rfl⟩
    · exact ⟨_, rfl⟩
  next hs => exact execCommand_answers hok (by rw [hs]; rfl)
  next hs => exact execCommand_answers hok (by rw [hs]; rfl)
end

/-- Settles O12: under the invariant SEQ is idle or at a label with an act. -/
theorem noStepStops : Obligations.NoStepStops := by
  intro s hinv
  refine ⟨?_, fun i hc => execCommand_answers hinv.seq_ok hc⟩
  unfold step
  split
  · exact ⟨_, rfl⟩
  · exact advance_answers hinv.seq_ok
  · exact advance_answers hinv.seq_ok

/-- Settles O13: issuing is `perform` of a primitive, and holding is `resume`, whose outcome is the agent's reply. -/
theorem issuedPrimitiveHoldsForItsAnswer : Obligations.IssuedPrimitiveHoldsForItsAnswer := by
  refine ⟨fun s c p q hn hs hq => ?_, fun s c p q hinv hn hs => ?_⟩
  · obtain ⟨k, ha⟩ := exists_prim_of_primitive hq
    exact step_run hn hs ha
  · have hok : (program c s.params p).bind Act.primitive = some q := by
      have := hinv.seq_ok
      rwa [hs] at this
    obtain ⟨k, ha⟩ := exists_prim_of_primitive hok
    have hkeep := program_keepsControl ha
    rw [step_wait hn hs ha]
    refine ⟨fun hq hno => ?_, fun hq hno => ?_, fun hq v rest ht => ?_, fun hq rest ht => ?_⟩
    · rw [State.resume_unanswered]
      rcases hno with hno | ⟨rest, hno⟩ <;> simp [State.takeReply, hq, hno]
    · rw [State.resume_unanswered]
      rcases hno with hno | ⟨rest, hno⟩ <;> simp [State.takeReply, hq, hno]
    · rw [State.resume_answered (State.takeReply_bus hq ht)]
      exact ⟨_, _, rfl, rfl, (hkeep v _).transport, rfl⟩
    · obtain ⟨ms, rfl⟩ : ∃ ms, q = .wait ms := by cases q <;> simp [Prim.toTimer] at hq ⊢
      rw [State.resume_answered (State.takeReply_timer ht)]
      exact ⟨_, _, rfl, rfl, (hkeep 0 _).timer, rfl⟩

end Machine
end Sys2Proof
end

section
/-! The assembler's words (30_encoding R77, R78) and the calibration offsets (43_calibration R164), as numbers. -/

namespace Sys2Proof

/-- Settles O1, by evaluating the decoder on the thirteen words. -/
theorem decodesTheWordsOfTheSpec : Obligations.DecodesTheWordsOfTheSpec := by
  unfold Obligations.DecodesTheWordsOfTheSpec
  decide

namespace Machine

/-! ### Lines -/

section
variable {l : Line}

theorem assemble_of_wf (h : l.wf = true) :
    assemble l = .ok (encode (Mnemonic.instr l.mnemonic (operandByte l.operands))) := by
  obtain ⟨harity, hrange⟩ := Bool.and_eq_true_iff.mp h
  simp [assemble, harity, hrange]

/-- A line that is not well-formed is an error (R77). -/
theorem assemble_error (h : l.wf = false) : ∃ e, assemble l = .error e := by
  unfold assemble
  split
  · exact ⟨_, rfl⟩
  next harity =>
    have harity : l.arityOk = true := by simpa using harity
    have hrange : l.rangeOk = false := by simpa [Line.wf, harity] using h
    exact ⟨_, by rw [hrange]; rfl⟩

theorem wf_eq_false_of_arity (h : l.arityOk = false) : l.wf = false := by simp [Line.wf, h]

theorem wf_eq_false_of_range (h : l.rangeOk = false) : l.wf = false := by simp [Line.wf, h]

/-- A well-formed line's word is `(OP << 8) | imm`, as a number. -/
theorem assemble_eq_ofNat (op imm : Nat) (h : l.wf = true)
    (hop : (Mnemonic.instr l.mnemonic (operandByte l.operands)).opcode.toNat = op)
    (himm : (Mnemonic.instr l.mnemonic (operandByte l.operands)).operand.toNat = imm) :
    assemble l = .ok (BitVec.ofNat 16 (op * 256 + imm)) := by
  rw [assemble_of_wf h, ← hop, ← himm, ← encode_toNat, BitVec.ofNat_toNat, BitVec.setWidth_eq]
end

theorem operandByte_one {v : Nat} (hv : v < 256) : (operandByte [v]).toNat = v := by
  simp [operandByte, Nat.mod_eq_of_lt hv]

theorem operandByte_two {m v : Nat} (hm : m < 256) (hv : v < 256) : (operandByte [m, v]).toNat = m ||| v := by
  simp [operandByte, Nat.mod_eq_of_lt hm, Nat.mod_eq_of_lt hv]

/-- Settles O5: a line's word is its command's encoding, and a line that is not well-formed is an error. -/
theorem assemblerEncodesLines : Obligations.AssemblerEncodesLines := by
  refine ⟨fun v hv => ?_, ⟨rfl, rfl, rfl, rfl⟩, fun m v hm hv => ?_, fun l ⟨v, hmem, hv⟩ => ?_, fun l hl hops => ?_,
    fun vs hvs => ?_, fun vs hone htwo => ?_, fun l hl => ?_⟩
  · have hwf : ∀ n ∈ [Mnemonic.setmode, .init, .setint], (⟨n, [v]⟩ : Line).wf = true := by
      simp [Line.wf, Line.arityOk, Line.rangeOk, Mnemonic.arities, hv]
    exact ⟨assemble_eq_ofNat 1 v (hwf _ (by simp)) rfl (operandByte_one hv),
      assemble_eq_ofNat 5 v (hwf _ (by simp)) rfl (operandByte_one hv),
      assemble_eq_ofNat 6 v (hwf _ (by simp)) rfl (operandByte_one hv)⟩
  · have hwf : ∀ n ∈ [Mnemonic.setmode, .init], (⟨n, [m, v]⟩ : Line).wf = true := by
      simp [Line.wf, Line.arityOk, Line.rangeOk, Mnemonic.arities, hm, hv]
    exact ⟨assemble_eq_ofNat 1 (m ||| v) (hwf _ (by simp)) rfl (operandByte_two hm hv),
      assemble_eq_ofNat 5 (m ||| v) (hwf _ (by simp)) rfl (operandByte_two hm hv)⟩
  · refine assemble_error (wf_eq_false_of_range ?_)
    simpa [Line.rangeOk] using ⟨v, hmem, hv⟩
  · refine assemble_error (wf_eq_false_of_arity ?_)
    rcases hl with h | h | h | h <;> simpa [Line.arityOk, h, Mnemonic.arities] using hops
  · refine assemble_error (wf_eq_false_of_arity ?_)
    simpa [Line.arityOk, Mnemonic.arities] using hvs
  · have harity : ∀ n ∈ [Mnemonic.setmode, .init], (⟨n, vs⟩ : Line).arityOk = false := by
      simp [Line.arityOk, Mnemonic.arities, hone, htwo]
    exact ⟨assemble_error (wf_eq_false_of_arity (harity _ (by simp))),
      assemble_error (wf_eq_false_of_arity (harity _ (by simp)))⟩
  · exact ⟨_, _, assemble_of_wf hl, decode_encode _⟩

/-! ### Offsets -/

theorem offset_eq (v : Word) : offset v = -(2 * v) := by
  rw [offset, mod16, signed16_eq_toInt, BitVec.ofInt_mul, BitVec.ofInt_toInt]
  show -(2 : Word) * v = _
  exact BitVec.neg_mul _ _

theorem offsetZ_eq (v : Word) (t : Byte) : offsetZ v t = -(2 * (v - t.setWidth 16)) := by
  have hdiff : BitVec.ofInt 16 (v.toInt - (t.toNat : Int)) = v - t.setWidth 16 := by
    rw [Int.sub_eq_add_neg, BitVec.ofInt_add, BitVec.ofInt_neg, BitVec.ofInt_toInt, BitVec.ofInt_natCast, BitVec.ofNat_toNat,
      BitVec.sub_eq_add_neg]
  rw [offsetZ, mod16, signed16_eq_toInt, BitVec.ofInt_mul, hdiff]
  show -(2 : Word) * (v - t.setWidth 16) = _
  exact BitVec.neg_mul _ _

theorem mod16_toNat (i : Int) : ((mod16 i).toNat : Int) = i % 65536 := by
  rw [mod16, BitVec.toNat_ofInt, Int.toNat_of_nonneg (Int.emod_nonneg i (by decide))]
  rfl

theorem hi_append_lo (v : Word) : hi v ++ lo v = v :=
  BitVec.extractLsb'_append_extractLsb' (w := 8) (len := 8) (x := v)

/-- Settles O39: reducing modulo 2^16 commutes with the 16-bit operations. -/
theorem offsetsReduceModuloTwoToThe16 : Obligations.OffsetsReduceModuloTwoToThe16 := by
  refine ⟨fun v t => ⟨offset_eq v, offsetZ_eq v t, mod16_toNat _, mod16_toNat _⟩, fun t => ?_, fun o => ?_⟩
  · rw [offsetZ_eq, BitVec.sub_self]
    rfl
  · exact ⟨_, _, _, _, _, _, rfl, hi_append_lo _, hi_append_lo _, hi_append_lo _⟩

end Machine
end Sys2Proof
end

section
/-! Single steps: what the step of a running and of an idle block is (10_state R22, R42, R253), the completions (R43), and
that no step takes a recorded event back (R41). -/

namespace Sys2Proof.Machine

/-! ### Which step it is -/

section
variable {s : State} {c : Command}

theorem advance_of_command (hc : s.seq.command = some c) : advance s = execCommand c s := by
  cases hs : s.seq with
  | idle => rw [hs] at hc; cases hc
  | run d p => rw [hs] at hc; cases hc; exact advance_run hs
  | wait d p q => rw [hs] at hc; cases hc; exact advance_wait hs

/-- A reset that is not yet due comes one step nearer (R207; log 9). -/
theorem step_countdown {n : Nat} {rest : List HostAct} (hh : s.host = .reset (n + 1) :: rest) :
    step s = advance { s with host := .reset n :: rest } := by
  rw [step, hh]

theorem step_issue {w : Word} {rest : List HostAct} (hs : s.seq = .idle) (hh : s.host = .issue w :: rest) :
    step s = .next ({ s with host := rest }.accept w) := by
  rw [step_noReset (noReset_of_issue hh), advance_issue hs hh]

theorem noReset_of_host_nil (hh : s.host = []) : s.noReset := by simp [State.noReset, hh]

theorem step_idle_of_host_nil (hs : s.seq = .idle) (hh : s.host = []) : step s = .next s := by
  rw [step_noReset (noReset_of_host_nil hh)]
  simp [advance, hs, hh]

theorem stepN_idle_of_host_nil (hs : s.seq = .idle) (hh : s.host = []) (n : Nat) : stepN n s = .next s := by
  induction n with
  | zero => rfl
  | succ n ih => rw [stepN_step n (step_idle_of_host_nil hs hh), ih]
end

/-- Settles O7: with no reset due, the step is `advance`, which asks SEQ for the command. -/
theorem stepRunsTheDecodedCommand : Obligations.StepRunsTheDecodedCommand := by
  refine ⟨fun s i hc hn => ?_, fun s hc hn => ?_, fun s n rest hh => ⟨fun i hc => ?_, fun hc => ?_, fun hs => ?_⟩,
    fun s w rest hr hh => ?_⟩
  · rw [step_noReset hn, advance_of_command hc]; rfl
  · rw [step_noReset hn, advance_of_command hc]; rfl
  · rw [step_countdown hh]; exact advance_of_command (s := { s with host := .reset n :: rest }) hc
  · rw [step_countdown hh]; exact advance_of_command (s := { s with host := .reset n :: rest }) hc
  · rw [step_countdown hh]; simp [advance, hs]
  · have hstep := step_issue (State.ready_iff.mp hr) hh
    refine ⟨fun i hi => ?_, fun hno => ?_⟩
    · have hc : ({ s with host := rest }.accept w).seq.command = some (.instr i) :=
        congrArg some (decode_eq_instr_iff.mpr hi)
      exact ⟨_, hstep, hc, fun hn => by rw [step_noReset hn, advance_of_command hc]; rfl⟩
    · have hill : decode w = .illegal := by
        rw [decode_eq_illegal_iff]
        rintro ⟨i, rfl⟩
        exact hno i (decodeWord_encode i)
      have hc : ({ s with host := rest }.accept w).seq.command = some .illegal := congrArg some hill
      exact ⟨_, hstep, hc, fun hn => by rw [step_noReset hn, advance_of_command hc]; rfl⟩

/-- Settles O14, by induction on the number of steps. -/
theorem idleBlockStaysIdle : Obligations.IdleBlockStaysIdle :=
  fun n _ hr hh => stepN_idle_of_host_nil (State.ready_iff.mp hr) hh n

/-! ### Completions -/

theorem State.cacheMode_eq (s : State) (mask : Byte) (code : Code) :
    s.cacheMode mask code = { s with
      modeCache := if code = success then modeField mask else s.modeCache
      sensCache := if code = success then sensField mask else s.sensCache } := by
  unfold State.cacheMode
  split <;> rfl

theorem State.takeAxes_eq (s : State) (code : Code) :
    s.takeAxes code = { s with
      resX := if code = success then (axes s.buf).1 else s.resX
      resY := if code = success then (axes s.buf).2.1 else s.resY
      resZ := if code = success then (axes s.buf).2.2 else s.resZ } := by
  unfold State.takeAxes
  split <;> rfl

theorem State.takeCalibration_eq (s : State) (code : Code) :
    s.takeCalibration code = { s with
      calX := if code = success then (axes s.buf).1 else s.calX
      calY := if code = success then (axes s.buf).2.1 else s.calY
      calZ := if code = success then (axes s.buf).2.2 else s.calZ } := by
  unfold State.takeCalibration
  split <;> rfl

/-- Settles O23: the completion's register writes are `cacheMode`. -/
theorem setmodeCompletes : Obligations.SetmodeCompletes := by
  intro s mask code hs
  rw [exec_finish hs rfl, State.cacheMode_eq]
  rfl

/-- Settles O24: the completion's register writes are `takeAxes`. -/
theorem orientCompletes : Obligations.OrientCompletes := by
  intro s code hs
  rw [exec_finish hs rfl, State.takeAxes_eq]
  rfl

/-- Settles O25: these completions write no register of their own. -/
theorem initSetintAndClrlatchComplete : Obligations.InitSetintAndClrlatchComplete :=
  ⟨fun _ _ _ hs => exec_finish hs rfl, fun _ _ _ hs => exec_finish hs rfl, fun _ _ hs => exec_finish hs rfl⟩

/-- Settles O26: the step that accepts the word, then ILLEGAL's one step. -/
theorem illegalWordFinishesWithIllegalCommand : Obligations.IllegalWordFinishesWithIllegalCommand := by
  intro s w rest hs hh hrest hill
  have hseq : ({ s with host := rest }.accept w).seq = .run .illegal .start := by rw [State.accept_seq, hill]; rfl
  rw [stepN_step 1 (step_issue hs hh), stepN_step 0 (step_run (by exact hrest) hseq rfl)]
  simp [stepN_zero, State.perform, State.complete, State.accept, hs]

/-- The codec gives back the two fields, which do not overlap (R123). -/
theorem config_roundtrip (m : Mode) (v : Sensitivity) :
    (encodeConfig (modeCode m) (sensCode v)).toNat = (modeCode m).toNat + (sensCode v).toNat ∧
      decodeConfig (encodeConfig (modeCode m) (sensCode v)) = (modeCode m, sensCode v) := by
  cases m <;> cases v <;> decide

/-- Settles O27: SETMODE caches the two fields that the codec reads from its operand. -/
theorem setmodeStoresTheEncodedFields : Obligations.SetmodeStoresTheEncodedFields := by
  refine ⟨⟨rfl, rfl, rfl, rfl⟩, ⟨rfl, rfl, rfl⟩, fun m v => ?_⟩
  obtain ⟨hsum, hdec⟩ := config_roundtrip m v
  obtain ⟨hmode, hsens⟩ := Prod.mk.inj hdec
  exact ⟨hsum, hdec, fun s hs => ⟨_, exec_finish hs rfl, hmode, hsens⟩⟩

/-! ### What a run keeps -/

section
variable {s t : State} {c : Command}

/-- The parameters are the same and the trace goes on from the old one. -/
def State.GoesOn (s t : State) : Prop := t.params = s.params ∧ ∃ es, t.trace = s.trace ++ es

theorem State.GoesOn.refl (s : State) : s.GoesOn s := ⟨rfl, [], by simp⟩

theorem State.GoesOn.trans {u : State} (h : s.GoesOn t) (h' : t.GoesOn u) : s.GoesOn u := by
  obtain ⟨hp, es, ht⟩ := h
  obtain ⟨hp', es', ht'⟩ := h'
  exact ⟨hp'.trans hp, es ++ es', by rw [ht', ht, List.append_assoc]⟩

theorem SameControl.goesOn (h : SameControl s t) : s.GoesOn t := ⟨h.params, [], by rw [h.trace, List.append_nil]⟩

theorem execCommand_goesOn (h : execCommand c s = .next t) : s.GoesOn t := by
  rcases execCommand_cases h with ⟨p, q, k, -, -, rfl⟩ | ⟨p, f, -, ha, rfl⟩ | ⟨p, f, code, -, ha, rfl⟩ |
    ⟨p, q, k, -, -, -, rfl⟩ | ⟨p, ms, k, rest, -, ha, -, rfl⟩ | ⟨p, q, k, v, rest, -, ha, -, -, rfl⟩
  · exact .refl s
  · exact (program_keepsControl ha s).goesOn
  · exact (program_keepsControl ha s).goesOn.trans ⟨rfl, _, rfl⟩
  · exact .refl _
  · exact ⟨(program_keepsControl ha 0 _).params, _, rfl⟩
  · exact ⟨(program_keepsControl ha v _).params, _, rfl⟩

theorem advance_goesOn (h : advance s = .next t) : s.GoesOn t := by
  rcases advance_cases h with ⟨-, w, rest, -, rfl⟩ | ⟨-, -, rfl⟩ | ⟨c, -, hexec⟩
  · exact ⟨rfl, _, rfl⟩
  · exact .refl _
  · exact execCommand_goesOn hexec

/-- A reset keeps the trace, with the abandoned primitive as its last entry (log 8). -/
theorem step_goesOn (h : step s = .next t) : s.GoesOn t := by
  rcases step_cases h with ⟨rest, -, rfl⟩ | ⟨n, rest, -, hadv⟩ | ⟨-, hadv⟩
  · exact ⟨rfl, _, rfl⟩
  · exact State.GoesOn.trans (t := { s with host := .reset n :: rest }) (.refl s) (advance_goesOn hadv)
  · exact advance_goesOn hadv
end

/-- Settles O15, by induction on the number of steps. -/
theorem traceOnlyGrows : Obligations.TraceOnlyGrows := by
  intro n
  induction n with
  | zero => intro s t h; cases h; exact State.GoesOn.refl s
  | succ n ih =>
    intro s t h
    obtain ⟨u, hu, hrun⟩ := stepN_succ_cases h
    exact (step_goesOn hu).trans (ih u t hrun)

end Sys2Proof.Machine
end

section
/-! Who writes a register: what the acts of the commands' labels do, said once for every command, and what a command's step can
therefore do to the registers (10_state R40, R43). -/

namespace Sys2Proof.Machine

/-! ### The acts of the labels -/

/-- The commands that run `MemWrite` (R122, R160, R180, R181). -/
def runsMemWrite : Command → Prop
  | .instr (.setmode _) | .instr (.init _) | .instr (.setint _) | .instr .clrlatch => True
  | .instr .getmode | .instr .getsens | .instr .orient | .illegal => False

/-- The commands that run `MemRead` (R142, R160). -/
def runsMemRead : Command → Prop
  | .instr .orient | .instr (.init _) => True
  | .instr (.setmode _) | .instr .getmode | .instr .getsens | .instr (.setint _) | .instr .clrlatch | .illegal => False

/-- What the act of a label is: a step of one of the two procedures, an act of INIT's own, or a completion. -/
inductive LabelAct (P : Params) : Command → Label → Act → Prop
  | write {c : Command} (p : Label) (hc : runsMemWrite c) (reg : Byte) (bs : List Byte) (here : WPos → Label)
      (ret : Code → Label) (w : WPos) : LabelAct P c p (memWrite P reg bs here ret w)
  | read {c : Command} (p : Label) (hc : runsMemRead c) (reg : Byte) (here : RPos → Label) (ret : Code → Label) (r : RPos) :
      LabelAct P c p (memRead P reg here ret r)
  | modeRet (cfg : Byte) (st : Code) :
      LabelAct P (.instr (.init cfg)) (.modeRet st) (.compute fun s => (s.cacheMode cfg st, .target st))
  | target (cfg : Byte) (st : Code) :
      LabelAct P (.instr (.init cfg)) (.target st) (.compute fun s => (s.startCalibration, .loop st))
  | loop (cfg : Byte) (st : Code) : LabelAct P (.instr (.init cfg)) (.loop st)
      (.compute fun s => (s, if s.calI < P.calIterations then .c1 st .r1 else .finish st))
  | c1Ret (cfg : Byte) (st code : Code) :
      LabelAct P (.instr (.init cfg)) (.c1Ret st code) (.compute fun s => (s.takeCalibration code, .c2 st))
  | c2 (cfg : Byte) (st : Code) :
      LabelAct P (.instr (.init cfg)) (.c2 st) (.compute fun s => (s, .c3 st s.offsets .w1))
  | c4 (cfg : Byte) (st : Code) : LabelAct P (.instr (.init cfg)) (.c4 st)
      (.prim (.wait P.calDelayMs) fun _ s => ({ s with calI := s.calI + 1 }, .loop st))
  | setmode (mask : Byte) (code : Code) :
      LabelAct P (.instr (.setmode mask)) (.finish code) (.finish (fun s => s.cacheMode mask code) code)
  | getmode : LabelAct P (.instr .getmode) .start (.finish (fun s => { s with resByte := s.modeCache.setWidth 8 }) success)
  | getsens : LabelAct P (.instr .getsens) .start (.finish (fun s => { s with resByte := decodeScale s.sensCache }) success)
  | orient (code : Code) : LabelAct P (.instr .orient) (.finish code) (.finish (fun s => s.takeAxes code) code)
  | bare (c : Command) (p : Label) (code : Code) : LabelAct P c p (.finish id code)

section
variable {c : Command} {P : Params} {p : Label} {a : Act} {q : Prim} {k : Byte → State → State × Label}

theorem program_labelAct (h : program c P p = some a) : LabelAct P c p a := by
  cases c with
  | illegal =>
    cases p with
    | start => cases h; exact .bare _ _ _
    | _ => cases h
  | instr i =>
    cases i with
    | setmode mask =>
      cases p with
      | write w => cases h; exact .write _ (by trivial) _ _ _ _ w
      | finish code => cases h; exact .setmode mask code
      | _ => cases h
    | getmode =>
      cases p with
      | start => cases h; exact .getmode
      | _ => cases h
    | getsens =>
      cases p with
      | start => cases h; exact .getsens
      | _ => cases h
    | orient =>
      cases p with
      | read r => cases h; exact .read _ (by trivial) _ _ _ r
      | finish code => cases h; exact .orient code
      | _ => cases h
    | setint mask =>
      cases p with
      | write w => cases h; exact .write _ (by trivial) _ _ _ _ w
      | finish code => cases h; exact .bare _ _ _
      | _ => cases h
    | clrlatch =>
      cases p with
      | clear w | enable w => cases h; exact .write _ (by trivial) _ _ _ _ w
      | finish code => cases h; exact .bare _ _ _
      | _ => cases h
    | init cfg =>
      cases p with
      | start | write _ | read _ | clear _ | enable _ => cases h
      | mode w | c3 _ _ w => cases h; exact .write _ (by trivial) _ _ _ _ w
      | c1 _ r => cases h; exact .read _ (by trivial) _ _ _ r
      | modeRet st => cases h; exact .modeRet cfg st
      | target st => cases h; exact .target cfg st
      | loop st => cases h; exact .loop cfg st
      | c1Ret st code => cases h; exact .c1Ret cfg st code
      | c2 st => cases h; exact .c2 cfg st
      | c4 st => cases h; exact .c4 cfg st
      | finish st => cases h; exact .bare _ _ _

/-! ### What a command's step does to the registers -/

theorem memWrite_keepsState {reg : Byte} {bs : List Byte} {here : WPos → Label} {ret : Code → Label} {w : WPos}
    (h : memWrite P reg bs here ret w = .prim q k) : q.toTimer = false ∧ ∀ v s, (k v s).1 = s := by
  obtain ⟨q', k', hk, hq, spec⟩ := memWrite_spec P reg bs here ret w
  rw [hk] at h
  cases h
  exact ⟨hq, fun v s => (spec v s).1⟩

theorem memRead_writesBuf {reg : Byte} {here : RPos → Label} {ret : Code → Label} {r : RPos}
    (h : memRead P reg here ret r = .prim q k) : q.toTimer = false ∧ ∀ v s, ∃ b, (k v s).1 = { s with buf := b } := by
  obtain ⟨q', k', hk, hq, spec⟩ := memRead_spec P reg here ret r
  rw [hk] at h
  cases h
  exact ⟨hq, fun v s => ⟨_, (spec v s).1⟩⟩

/-- Taking an answer writes no register but BUF and CAL_I (R103, R166). -/
theorem prim_effect (h : program c P p = some (.prim q k)) (v : Byte) (s : State) :
    ∃ b i, (k v s).1 = { s with buf := b, calI := i } := by
  generalize ha : Act.prim q k = a at h
  cases program_labelAct h with
  | write _ _ reg bs here ret w => exact ⟨_, _, (memWrite_keepsState ha.symm).2 v s⟩
  | read _ _ reg here ret r =>
    obtain ⟨b, hb⟩ := (memRead_writesBuf ha.symm).2 v s
    exact ⟨b, _, hb⟩
  | c4 cfg st => cases ha; exact ⟨_, _, rfl⟩
  | _ => cases ha
end

/-- Everything a step of a command can make of the registers of `s`. -/
inductive CommandEffect (s : State) : Command → State → Prop
  /-- A primitive issued or answered or waited for, the loop's test, or C2. -/
  | goesOn (c : Command) (q : Seq) (hq : q ≠ .idle) (tr : List Event) (bus : List BusReply) (tm : List TimerReply)
      (b : Vector Byte 6) (i : Nat) :
      CommandEffect s c { s with seq := q, trace := tr, transport := bus, timer := tm, buf := b, calI := i }
  /-- The end of INIT's `SetModeProc`. -/
  | modeRet (cfg : Byte) (st : Code) (hs : s.seq = .run (.instr (.init cfg)) (.modeRet st)) :
      CommandEffect s (.instr (.init cfg)) { s.cacheMode cfg st with seq := .run (.instr (.init cfg)) (.target st) }
  /-- The start of the calibration. -/
  | target (cfg : Byte) (st : Code) :
      CommandEffect s (.instr (.init cfg)) { s.startCalibration with seq := .run (.instr (.init cfg)) (.loop st) }
  /-- The end of a calibration read. -/
  | c1Ret (cfg : Byte) (st code : Code) (hs : s.seq = .run (.instr (.init cfg)) (.c1Ret st code)) :
      CommandEffect s (.instr (.init cfg)) { s.takeCalibration code with seq := .run (.instr (.init cfg)) (.c2 st) }
  /-- The completion of a SETMODE. -/
  | setmode (mask : Byte) (code : Code) (hs : s.seq = .run (.instr (.setmode mask)) (.finish code)) :
      CommandEffect s (.instr (.setmode mask)) ((s.cacheMode mask code).complete code)
  /-- The completion of a GETMODE or a GETSENS. -/
  | getter (c : Command) (hc : c = .instr .getmode ∨ c = .instr .getsens) (b : Byte) (hs : s.seq = .run c .start) :
      CommandEffect s c ({ s with resByte := b }.complete success)
  /-- The completion of an ORIENT. -/
  | orient (code : Code) (hs : s.seq = .run (.instr .orient) (.finish code)) :
      CommandEffect s (.instr .orient) ((s.takeAxes code).complete code)
  /-- The completion of another command. -/
  | bare (c : Command) (p : Label) (code : Code) (hs : s.seq = .run c p) : CommandEffect s c (s.complete code)

section
variable {c : Command} {s t : State}

theorem execCommand_effect (h : execCommand c s = .next t) : CommandEffect s c t := by
  rcases execCommand_cases h with ⟨p, q, k, -, -, rfl⟩ | ⟨p, f, hs, ha, rfl⟩ | ⟨p, f, code, hs, ha, rfl⟩ |
    ⟨p, q, k, hs, -, -, rfl⟩ | ⟨p, ms, k, rest, -, ha, -, rfl⟩ | ⟨p, q, k, v, rest, -, ha, -, -, rfl⟩
  · exact .goesOn _ _ (by nofun) _ _ _ _ _
  · generalize hf : Act.compute f = a at ha
    cases program_labelAct ha with
    | write _ _ reg bs here ret w => cases w <;> cases hf
    | read _ _ reg here ret r => cases r <;> cases hf
    | modeRet cfg st => cases hf; exact .modeRet cfg st hs
    | target cfg st => cases hf; exact .target cfg st
    | c1Ret cfg st code => cases hf; exact .c1Ret cfg st code hs
    | loop | c2 => cases hf; exact .goesOn _ _ (by nofun) _ _ _ _ _
    | _ => cases hf
  · generalize hf : Act.finish f code = a at ha
    cases program_labelAct ha with
    | write _ _ reg bs here ret w => cases w <;> cases hf
    | read _ _ reg here ret r => cases r <;> cases hf
    | setmode mask code => cases hf; exact .setmode mask code hs
    | getmode => cases hf; exact .getter _ (.inl rfl) _ hs
    | getsens => cases hf; exact .getter _ (.inr rfl) _ hs
    | orient code => cases hf; exact .orient code hs
    | bare => cases hf; exact .bare _ p code hs
    | _ => cases hf
  · exact .goesOn _ _ (by rw [hs]; nofun) _ _ _ _ _
  · obtain ⟨b, i, hk⟩ := prim_effect ha 0 { s with timer := rest }
    rw [hk]
    exact .goesOn _ _ (by nofun) _ _ _ _ _
  · obtain ⟨b, i, hk⟩ := prim_effect ha v { s with transport := rest }
    rw [hk]
    exact .goesOn _ _ (by nofun) _ _ _ _ _

/-- A step in which no reset strikes is a word accepted or nothing in an idle block, and the command's step in a busy one,
whatever the countdown of a reset has become. -/
theorem step_effect (hr : ∀ rest, s.host ≠ .reset 0 :: rest) (h : step s = .next t) :
    (∃ q tr acts, t = { s with seq := q, trace := tr, host := acts }) ∨
      ∃ c acts, s.seq.command = some c ∧ CommandEffect { s with host := acts } c t := by
  obtain ⟨acts, hadv⟩ : ∃ acts, advance { s with host := acts } = .next t := by
    rcases step_cases h with ⟨rest, hh, -⟩ | ⟨n, rest, -, hadv⟩ | ⟨-, hadv⟩
    · exact absurd hh (hr rest)
    · exact ⟨_, hadv⟩
    · exact ⟨s.host, hadv⟩
  rcases advance_cases hadv with ⟨-, w, rest, -, rfl⟩ | ⟨-, -, rfl⟩ | ⟨c, hc, hexec⟩
  · exact .inl ⟨_, _, _, rfl⟩
  · exact .inl ⟨_, _, acts, rfl⟩
  · exact .inr ⟨c, acts, hc, execCommand_effect hexec⟩
end

/-! ### Who writes a register -/

/-- Settles O16: every effect that leaves the block busy keeps the result registers, and every other one is `complete`. -/
theorem resultsChangeOnlyAtCompletion : Obligations.ResultsChangeOnlyAtCompletion := by
  intro c s t h
  rw [State.ready_iff, ← Bool.not_eq_true, State.ready_iff]
  cases execCommand_effect h with
  | goesOn _ q hq => exact ⟨fun _ => ⟨rfl, rfl, rfl, rfl, rfl⟩, fun hidle => absurd hidle hq⟩
  | target => exact ⟨fun _ => ⟨rfl, rfl, rfl, rfl, rfl⟩, nofun⟩
  | modeRet | c1Ret => exact ⟨fun _ => by simp, nofun⟩
  | bare _ p code hs | getter _ _ b hs | setmode mask code hs | orient code hs =>
    exact ⟨fun hbusy => absurd rfl hbusy, fun _ => ⟨⟨_, hs⟩, by simp⟩⟩

/-- Settles O17: of the effects only the two ends of a SETMODE procedure touch the caches, and these only with Success. -/
theorem cachesChangeOnlyOnSuccess : Obligations.CachesChangeOnlyOnSuccess := by
  intro s t hr h hchange
  rcases step_effect hr h with ⟨q, tr, acts, rfl⟩ | ⟨c, acts, -, heff⟩
  · simp at hchange
  cases heff with
  | modeRet cfg st hs =>
    obtain rfl : st = success := by
      by_contra (hne : ¬ _ = 0#4)
      simp [hne] at hchange
    exact ⟨cfg, .inr hs, by simp [modeField], by simp [sensField]⟩
  | setmode mask code hs =>
    obtain rfl : code = success := by
      by_contra (hne : ¬ _ = 0#4)
      simp [hne] at hchange
    exact ⟨mask, .inl hs, by simp [modeField], by simp [sensField]⟩
  | _ => simp at hchange

/-- Settles O18: of the effects only the getters' completions write RES_BYTE, and only ORIENT's the axis results. -/
theorem resultRegistersHaveTheirWriters : Obligations.ResultRegistersHaveTheirWriters := by
  intro s t hr h
  rcases step_effect hr h with ⟨q, tr, acts, rfl⟩ | ⟨c, acts, -, heff⟩
  · simp
  cases heff with
  | getter c hc b hs =>
    have hcommand : s.seq.command = some c := congrArg Seq.command hs
    exact ⟨fun _ => hcommand ▸ hc.imp (congrArg some) (congrArg some), fun hchange => by simp at hchange⟩
  | orient code hs =>
    refine ⟨fun hchange => by simp at hchange, fun hchange => ?_⟩
    obtain rfl : code = success := by
      by_contra (hne : ¬ _ = 0#4)
      simp [hne] at hchange
    exact ⟨hs, by simp [axes]⟩
  | _ => simp

/-- Settles O19: of the effects only the end of C1 writes the calibration registers, and it only with Success. -/
theorem calibrationRegistersHaveOneWriter : Obligations.CalibrationRegistersHaveOneWriter := by
  intro s t hr h hchange
  rcases step_effect hr h with ⟨q, tr, acts, rfl⟩ | ⟨c, acts, -, heff⟩
  · simp at hchange
  cases heff with
  | c1Ret cfg st code hs =>
    obtain rfl : code = success := by
      by_contra (hne : ¬ _ = 0#4)
      simp [hne] at hchange
    exact ⟨cfg, st, hs, by simp [axes]⟩
  | _ => simp at hchange

end Sys2Proof.Machine
end

section
/-! What each command leaves unchanged (41_mode_codec R122 to R125, 42_orientation R142, 43_calibration R160, 44_interrupt R180,
R181, 60_exceptions R205), what it sends on the bus (20_memory R55), and what the host reads (10_state R34). -/

namespace Sys2Proof.Machine

/-! ### The frame of each command -/

/-- What a command's act may change, with the replies taken before it: `u` is `s` but for these. -/
def CommandFrame : Command → State → State → Prop
  | .instr (.setint _), s, u | .instr .clrlatch, s, u => ∃ bus, u = { s with transport := bus }
  | .illegal, s, u => u = s
  | .instr (.setmode _), s, u => ∃ bus m v, u = { s with transport := bus, modeCache := m, sensCache := v }
  | .instr .getmode, s, u | .instr .getsens, s, u => ∃ b, u = { s with resByte := b }
  | .instr .orient, s, u => ∃ bus x y z b, u = { s with transport := bus, resX := x, resY := y, resZ := z, buf := b }
  | .instr (.init _), s, u => ∃ bus tm m v x y z t i b, u = { s with
      transport := bus, timer := tm, modeCache := m, sensCache := v, calX := x, calY := y, calZ := z, calT := t, calI := i
      buf := b }

/-- The act, with the reply it has taken, changes a state only as `R` allows. -/
def Act.Within (R : State → State → Prop) : Act → Prop
  | .prim q k => ∀ s s' v, s.takeReply q = some (v, s') → R s (k v s').1
  | .compute f => ∀ s, R s (f s).1
  | .finish f _ => ∀ s, R s (f s)

section
variable {c : Command} {P : Params} {p : Label} {a : Act} {R : State → State → Prop}

theorem commandFrame_refl (c : Command) (s : State) : CommandFrame c s s := by
  cases c with
  | illegal => rfl
  | instr i =>
    cases i with
    | setint _ | clrlatch | getmode | getsens => exact ⟨_, rfl⟩
    | setmode _ => exact ⟨_, _, _, rfl⟩
    | orient => exact ⟨_, _, _, _, _, rfl⟩
    | init _ => exact ⟨_, _, _, _, _, _, _, _, _, _, rfl⟩

theorem commandFrame_bus (hc : runsMemWrite c) (s : State) (bus : List BusReply) :
    CommandFrame c s { s with transport := bus } := by
  cases c with
  | illegal => exact hc.elim
  | instr i =>
    cases i with
    | setint _ | clrlatch => exact ⟨_, rfl⟩
    | setmode _ => exact ⟨_, _, _, rfl⟩
    | init _ => exact ⟨_, _, _, _, _, _, _, _, _, _, rfl⟩
    | getmode | getsens | orient => exact hc.elim

theorem commandFrame_buf (hc : runsMemRead c) (s : State) (bus : List BusReply) (b : Vector Byte 6) :
    CommandFrame c s { s with transport := bus, buf := b } := by
  cases c with
  | illegal => exact hc.elim
  | instr i =>
    cases i with
    | orient => exact ⟨_, _, _, _, _, rfl⟩
    | init _ => exact ⟨_, _, _, _, _, _, _, _, _, _, rfl⟩
    | setint _ | clrlatch | setmode _ | getmode | getsens => exact hc.elim

theorem takeReply_of_bus {s s' : State} {q : Prim} {v : Byte} (hq : q.toTimer = false)
    (h : s.takeReply q = some (v, s')) : ∃ rest, s.transport = .answers v :: rest ∧ s' = { s with transport := rest } := by
  rcases State.takeReply_cases h with ⟨hq', -⟩ | ⟨-, hrest⟩
  · rw [hq] at hq'
    cases hq'
  · exact hrest

theorem memWrite_within {reg : Byte} {bs : List Byte} {here : WPos → Label} {ret : Code → Label} {w : WPos}
    (hR : ∀ s bus, R s { s with transport := bus }) : (memWrite P reg bs here ret w).Within R := by
  obtain ⟨q, k, hk, -⟩ := memWrite_spec P reg bs here ret w
  obtain ⟨hq, hkeep⟩ := memWrite_keepsState hk
  rw [hk]
  intro s s' v hreply
  obtain ⟨rest, -, rfl⟩ := takeReply_of_bus hq hreply
  rw [hkeep]
  exact hR s rest

theorem memRead_within {reg : Byte} {here : RPos → Label} {ret : Code → Label} {r : RPos}
    (hR : ∀ s bus b, R s { s with transport := bus, buf := b }) : (memRead P reg here ret r).Within R := by
  obtain ⟨q, k, hk, -⟩ := memRead_spec P reg here ret r
  obtain ⟨hq, hbuf⟩ := memRead_writesBuf hk
  rw [hk]
  intro s s' v hreply
  obtain ⟨rest, -, rfl⟩ := takeReply_of_bus hq hreply
  obtain ⟨b, hb⟩ := hbuf v { s with transport := rest }
  rw [hb]
  exact hR s rest b

theorem labelAct_within (h : LabelAct P c p a) : a.Within (CommandFrame c) := by
  cases h with
  | write _ hc reg bs here ret w => exact memWrite_within (commandFrame_bus hc)
  | read _ hc reg here ret r => exact memRead_within (commandFrame_buf hc)
  | modeRet cfg st => exact fun s => ⟨_, _, _, _, _, _, _, _, _, _, s.cacheMode_eq cfg st⟩
  | target cfg st => exact fun s => ⟨_, _, _, _, _, _, _, _, _, _, rfl⟩
  | c1Ret cfg st code => exact fun s => ⟨_, _, _, _, _, _, _, _, _, _, s.takeCalibration_eq code⟩
  | loop cfg st | c2 cfg st => exact fun s => commandFrame_refl _ s
  | c4 cfg st =>
    intro s s' v hreply
    rcases State.takeReply_cases hreply with ⟨-, -, rest, -, rfl⟩ | ⟨hq, -⟩
    · exact ⟨_, _, _, _, _, _, _, _, _, _, rfl⟩
    · cases hq
  | setmode mask code => exact fun s => ⟨_, _, _, s.cacheMode_eq mask code⟩
  | getmode | getsens => exact fun s => ⟨_, rfl⟩
  | orient code => exact fun s => ⟨_, _, _, _, _, s.takeAxes_eq code⟩
  | bare c p code => exact commandFrame_refl c

/-- A command's step changes SEQ, STATUS, the trace and what its acts may change. -/
theorem execCommand_frame {s t : State} (h : execCommand c s = .next t) :
    ∃ u q st tr, CommandFrame c s u ∧ t = { u with seq := q, status := st, trace := tr } := by
  rw [execCommand_eq] at h
  rcases drive_cases h with ⟨p, a, -, ha, rfl⟩ | ⟨p, q, k, -, ha, rfl⟩
  · have hin := labelAct_within (program_labelAct ha)
    cases a with
    | prim q k => exact ⟨s, _, _, _, commandFrame_refl c s, rfl⟩
    | compute f => exact ⟨_, _, _, _, hin s, rfl⟩
    | finish f code => exact ⟨_, _, _, _, hin s, rfl⟩
  · cases hreply : s.takeReply q with
    | none => exact ⟨s, _, _, _, commandFrame_refl c s, State.resume_unanswered hreply⟩
    | some vs =>
      exact ⟨_, _, _, _, labelAct_within (program_labelAct ha) s vs.2 vs.1 hreply, State.resume_answered hreply⟩
end

/-- Settles O20: the frame of each command's acts. -/
theorem frameOfEachCommand : Obligations.FrameOfEachCommand := by
  intro s t
  refine ⟨fun mask h => ?_, fun h => ?_, fun h => ?_, fun mask h => ?_, fun h => ?_, fun h => ?_, fun h => ?_,
    fun cfg h => ?_⟩
  · obtain ⟨u, q, st, tr, ⟨bus, rfl⟩, rfl⟩ := execCommand_frame (c := .instr (.setint mask)) h
    rfl
  · obtain ⟨u, q, st, tr, ⟨bus, rfl⟩, rfl⟩ := execCommand_frame (c := .instr .clrlatch) h
    rfl
  · obtain ⟨u, q, st, tr, rfl, rfl⟩ := execCommand_frame (c := .illegal) h
    rfl
  · obtain ⟨u, q, st, tr, ⟨bus, m, v, rfl⟩, rfl⟩ := execCommand_frame (c := .instr (.setmode mask)) h
    rfl
  · obtain ⟨u, q, st, tr, ⟨b, rfl⟩, rfl⟩ := execCommand_frame (c := .instr .getmode) h
    rfl
  · obtain ⟨u, q, st, tr, ⟨b, rfl⟩, rfl⟩ := execCommand_frame (c := .instr .getsens) h
    rfl
  · obtain ⟨u, q, st, tr, ⟨bus, x, y, z, b, rfl⟩, rfl⟩ := execCommand_frame (c := .instr .orient) h
    rfl
  · obtain ⟨u, q, st, tr, ⟨bus, tm, m, v, x, y, z, t, i, b, rfl⟩, rfl⟩ :=
      execCommand_frame (c := .instr (.init cfg)) h
    rfl

/-! ### What a command writes to the bus -/

section
variable {P : Params} {p : Label} {q : Prim} {k : Byte → State → State × Label} {xs : List Byte}

theorem memWrite_xwrite {reg : Byte} {bs : List Byte} {here : WPos → Label} {ret : Code → Label} {w : WPos}
    (h : memWrite P reg bs here ret w = .prim (.xwrite xs) k) : (w = .w2 ∧ xs = [reg]) ∨ (w = .w3 ∧ xs = bs) := by
  cases w with
  | w2 => cases h; exact .inl ⟨rfl, rfl⟩
  | w3 => cases h; exact .inr ⟨rfl, rfl⟩
  | w1 | w4 => cases h

theorem memRead_xwrite {reg : Byte} {here : RPos → Label} {ret : Code → Label} {r : RPos}
    (h : memRead P reg here ret r = .prim (.xwrite xs) k) : r = .r2 ∧ xs = [reg] := by
  cases r with
  | r2 => cases h; exact ⟨rfl, rfl⟩
  | _ => cases h

/-- The step that leaves the block holding was at the label that issues the primitive already. -/
theorem execCommand_wait_label {c c' : Command} {s t : State} (h : execCommand c s = .next t)
    (ht : t.seq = .wait c' p q) : s.seq.label = some p := by
  rcases execCommand_cases h with ⟨p', q', k, hs, -, rfl⟩ | ⟨p', f, -, -, rfl⟩ | ⟨p', f, code, -, -, rfl⟩ |
    ⟨p', q', k, hs, -, -, rfl⟩ | ⟨p', ms, k, rest, -, -, -, rfl⟩ | ⟨p', q', k, v, rest, -, -, -, -, rfl⟩
  · cases ht
    rw [hs]
    rfl
  · cases ht
  · cases ht
  · rw [ht]
    rfl
  · cases ht
  · cases ht

end

/-- Settles O41: an XWRITE is the address phase or the data phase of a register procedure at one of the command's labels; the
burst is that of the offsets at the label, which the invariant ties to the calibration registers. -/
theorem commandsWriteOnlyTheirRegisters : Obligations.CommandsWriteOnlyTheirRegisters := by
  intro c c' s t p xs h ht
  obtain ⟨-, k, hk⟩ := execCommand_wait h ht
  have hlabel := execCommand_wait_label h ht
  cases c with
  | illegal => cases p <;> cases hk
  | instr i =>
    cases i with
    | getmode | getsens => cases p <;> cases hk
    | setmode mask | setint mask =>
      cases p with
      | write w => simpa using memWrite_xwrite (Option.some.inj hk)
      | _ => cases hk
    | clrlatch =>
      cases p with
      | clear w | enable w => simpa using memWrite_xwrite (Option.some.inj hk)
      | _ => cases hk
    | orient =>
      cases p with
      | read r => simpa using memRead_xwrite (Option.some.inj hk)
      | _ => cases hk
    | init cfg =>
      cases p with
      | mode w => simpa using memWrite_xwrite (Option.some.inj hk)
      | c1 st r => simpa using memRead_xwrite (Option.some.inj hk)
      | c3 st o w =>
        have hoffsets (hinv : Inv s) : o = s.offsets := (hinv.loop_ok _ hlabel).2.2
        rcases memWrite_xwrite (Option.some.inj hk) with ⟨rfl, rfl⟩ | ⟨rfl, rfl⟩
        · exact .inr (.inr (.inr (.inl ⟨st, o, rfl, rfl⟩)))
        · exact .inr (.inr (.inr (.inr ⟨st, o, rfl, rfl, fun hinv => by rw [hoffsets hinv]⟩)))
      | _ => cases hk

/-! ### CLRLATCH's second write -/

section
variable {P : Params} {p : Label} {q : Prim} {k : Byte → State → State × Label}

theorem codeOfStatus_eq_success_iff (x : BitVec 3) : codeOfStatus x = success ↔ x = 0 := by
  revert x; decide

/-- CLRLATCH goes to the first label of its second write from the close of the first one, answered with status 0, and from no
other label. -/
theorem clrlatch_to_enable {v : Byte} {s : State} (h : program (.instr .clrlatch) P p = some (.prim q k))
    (hk : (k v s).2 = .enable .w1) : p = .clear .w4 ∧ q = .close .stop ∧ statusOf v = 0 := by
  cases p with
  | clear w =>
    cases w with
    | w1 => cases h; cases hk
    | w2 | w3 =>
      cases h
      dsimp only at hk
      split at hk
      · cases hk
      · cases hk
    | w4 =>
      cases h
      dsimp only at hk
      split at hk
      next hcode => exact ⟨rfl, rfl, (codeOfStatus_eq_success_iff _).mp hcode⟩
      next => cases hk
  | enable w =>
    cases w with
    | w1 | w4 => cases h; cases hk
    | w2 | w3 =>
      cases h
      dsimp only at hk
      split at hk
      · cases hk
      · cases hk
  | _ => cases h
end

/-- Settles O42: of the steps of CLRLATCH only an answer of the Transport leads to a label of the second write. -/
theorem enableFollowsASuccessfulClear : Obligations.EnableFollowsASuccessfulClear := by
  intro s t h ht
  rcases execCommand_cases (c := .instr .clrlatch) h with ⟨p, q, k, -, -, rfl⟩ | ⟨p, f, -, ha, -⟩ |
    ⟨p, f, code, -, -, rfl⟩ | ⟨p, q, k, hs, -, -, rfl⟩ | ⟨p, ms, k, rest, -, ha, -, rfl⟩ |
    ⟨p, q, k, v, rest, hs, ha, -, hbus, rfl⟩
  · cases ht
  · generalize hf : Act.compute f = a at ha
    cases program_labelAct ha with
    | write _ _ reg bs here ret w => cases w <;> cases hf
    | read _ hc => exact hc.elim
    | bare => cases hf
  · cases ht
  · rw [hs] at ht
    cases ht
  · injection ht with _ hnext
    obtain ⟨-, hq, -⟩ := clrlatch_to_enable ha hnext
    cases hq
  · injection ht with _ hnext
    obtain ⟨rfl, rfl, hstatus⟩ := clrlatch_to_enable ha hnext
    exact ⟨hs, v, rest, hbus, hstatus⟩

/-! ### Host reads -/

/-- Settles O43: a read shows READY or a result register, and these change only at completion. -/
theorem hostReadsReturnTheRegisters : Obligations.HostReadsReturnTheRegisters := by
  refine ⟨fun s => ⟨fun hs => ?_, fun hs => ?_, ?_, ?_, rfl, rfl, rfl⟩, fun s r m v t x y z i b => ?_,
    fun c s t r h hbusy hr => ?_⟩
  · simp [State.hostRead, State.ready, hs]
  · simp [State.hostRead, State.ready, hs]
  · have := s.status.isLt
    simp only [State.hostRead, BitVec.toNat_setWidth]
    omega
  · have := s.resByte.isLt
    simp only [State.hostRead, BitVec.toNat_setWidth]
    omega
  · cases r <;> rfl
  · obtain ⟨hstatus, hbyte, hx, hy, hz⟩ := (resultsChangeOnlyAtCompletion c s t h).1 hbusy
    cases r with
    | ready => exact absurd rfl hr
    | status => simp only [State.hostRead, hstatus]
    | resByte => simp only [State.hostRead, hbyte]
    | resX => exact hx
    | resY => exact hy
    | resZ => exact hz

end Sys2Proof.Machine
end

section
/-! Whole commands, for every answer of the Transport: each is its procedures' runs (40_transport R102, R103) with the internal
steps and the completion of its own labels between and after them. -/

namespace Sys2Proof.Machine

/-! ### The steps between the procedures -/

section
variable {s : State} {c : Command} {p : Label}

/-- A completion as a run of one step (R43). -/
theorem stepN_finish {f : State → State} {code : Code} (hn : s.noReset) (hs : s.seq = .run c p)
    (ha : program c s.params p = some (.finish f code)) : stepN 1 s = .next ((f s).complete code) := by
  rw [stepN_step 0 (step_run hn hs ha), stepN_zero]
  rfl

/-- An internal step at the head of a run. -/
theorem stepN_compute {f : State → State × Label} (n : Nat) (hn : s.noReset) (hs : s.seq = .run c p)
    (ha : program c s.params p = some (.compute f)) :
    stepN (n + 1) s = stepN n { (f s).1 with seq := .run c (f s).2 } := by
  rw [stepN_step n (step_run hn hs ha)]
  rfl

/-- An iteration of INIT's loop begins with its read (R162). -/
theorem stepN_loop_enter {cfg : Byte} {st : Code} (n : Nat) (hn : s.noReset)
    (hs : s.seq = .run (.instr (.init cfg)) (.loop st)) (hlt : s.calI < s.params.calIterations) :
    stepN (n + 1) s = stepN n { s with seq := .run (.instr (.init cfg)) (.c1 st .r1) } := by
  rw [stepN_compute n hn hs rfl]
  simp only [if_pos hlt]

/-- After the last iteration INIT finishes with its mode write's status (R162, R169). -/
theorem stepN_loop_exit {cfg : Byte} {st : Code} (hn : s.noReset) (hs : s.seq = .run (.instr (.init cfg)) (.loop st))
    (hge : ¬ s.calI < s.params.calIterations) :
    stepN 2 s = .next { s with seq := .idle, status := st, trace := s.trace ++ [.finish st] } := by
  rw [stepN_compute 1 hn hs rfl, stepN_finish (c := .instr (.init cfg)) (p := .finish st) (by exact hn)
    (by simp only [if_neg hge]) rfl]
  rfl
end

/-! ### The two procedures' outcomes -/

section
variable {s : State} {P : Params} {reg : Byte} {bs : List Byte} {c1 c2 e g : Byte} {ds : List (Byte × Byte)}

/-- A write that succeeds has issued all four of its primitives. -/
theorem writeEvents_length_of_success (h : writeCode bs.length c1 c2 e = 0) :
    (writeEvents P reg bs c1 c2 e).length = 4 := by
  unfold writeCode at h
  split at h
  · cases h
  next h1 =>
    split at h
    · cases h
    next h2 => simp [writeEvents, not_not.mp h1, not_not.mp h2]

theorem axes_fill_of_success (b : Vector Byte 6) (h : readCode P c1 e g ds = 0) :
    axes (fillBuf b (readBytes P c1 e g ds)) = axesOf (readBytes P c1 e g ds) :=
  axesOf_fill b _ (readCode_zero h)

/-- ORIENT's result writes after a read (R142). -/
theorem takeAxes_of_read {b : Vector Byte 6} (hbuf : s.buf = fillBuf b (readBytes P c1 e g ds)) :
    s.takeAxes (readCode P c1 e g ds) = { s with
      resX := if readCode P c1 e g ds = 0 then (axesOf (readBytes P c1 e g ds)).1 else s.resX
      resY := if readCode P c1 e g ds = 0 then (axesOf (readBytes P c1 e g ds)).2.1 else s.resY
      resZ := if readCode P c1 e g ds = 0 then (axesOf (readBytes P c1 e g ds)).2.2 else s.resZ } := by
  rw [State.takeAxes_eq]
  by_cases hcode : readCode P c1 e g ds = 0
  · simp only [hcode, if_true, hbuf, axes_fill_of_success b hcode]
  · simp only [if_neg hcode]

/-- The calibration registers after a read (R163). -/
theorem takeCalibration_of_read {b : Vector Byte 6} (hbuf : s.buf = fillBuf b (readBytes P c1 e g ds)) :
    s.takeCalibration (readCode P c1 e g ds) = { s with
      calX := (calAfter (s.calX, s.calY, s.calZ) (readCode P c1 e g ds) (readBytes P c1 e g ds)).1
      calY := (calAfter (s.calX, s.calY, s.calZ) (readCode P c1 e g ds) (readBytes P c1 e g ds)).2.1
      calZ := (calAfter (s.calX, s.calY, s.calZ) (readCode P c1 e g ds) (readBytes P c1 e g ds)).2.2 } := by
  rw [State.takeCalibration_eq]
  by_cases hcode : readCode P c1 e g ds = 0
  · simp only [calAfter, hcode, if_true, hbuf, axes_fill_of_success b hcode]
  · simp only [calAfter, if_neg hcode]

theorem writeEvents_length_le : (writeEvents P reg bs c1 c2 e).length ≤ 4 := by
  unfold writeEvents
  split
  · simp
  · split <;> simp

theorem drainEvents_length_le : ∀ ds : List (Byte × Byte), (drainEvents ds).length ≤ 2 * ds.length
  | [] => Nat.le_refl _
  | (a, b) :: ds => by
    have := drainEvents_length_le ds
    unfold drainEvents
    split
    · simp only [List.length_cons, List.length_nil]
      omega
    · simp only [List.length_cons]
      omega

theorem readEvents_length_le (hds : ds.length = 6) : (readEvents P reg c1 e g ds).length ≤ 16 := by
  have := drainEvents_length_le ds
  unfold readEvents
  split
  · simp
  · split
    · simp
    · split
      · simp
      · simp only [List.cons_append, List.nil_append, List.length_cons]
        omega

theorem readReplies_length (a : Byte) (hds : ds.length = 6) : (readReplies a c1 e g ds).length = 16 := by
  simp [readReplies, answers, List.length_flatMap, hds]
end

/-! ### The commands -/

/-- Settles O28: the write, then the completion. -/
theorem setmodeRunsToCompletion : Obligations.SetmodeRunsToCompletion := by
  intro s mask a c1 c2 e rest hs hn es ht code
  rw [Nat.add_comm, write_run (here := .write) (ret := .finish) hn hs (fun _ => rfl) a c1 c2 e rest ht 1,
    stepN_finish (by exact hn) rfl rfl, State.cacheMode_eq]
  rfl

/-- Settles O29: the write, then the completion. -/
theorem setintRunsToCompletion : Obligations.SetintRunsToCompletion := by
  intro s mask a c1 c2 e rest hs hn es ht code
  rw [Nat.add_comm, write_run (here := .write) (ret := .finish) hn hs (fun _ => rfl) a c1 c2 e rest ht 1,
    stepN_finish (by exact hn) rfl rfl]
  rfl

/-- Settles O30: the clear write's status decides between the completion and the enable write. -/
theorem clrlatchRunsToCompletion : Obligations.ClrlatchRunsToCompletion := by
  intro s a c1 c2 e hs hn es code
  have hclear (rest : List BusReply) (ht : s.transport = (answers [a, c1, c2, e]).take es.length ++ rest) (n : Nat) :
      stepN (n + 2 * es.length) s = stepN n { s with
        seq := .run (.instr .clrlatch) (if code = success then .enable .w1 else .finish code)
        transport := s.transport.drop es.length, trace := s.trace ++ es } :=
    write_run (here := .clear) (ret := fun s1 => if s1 = success then .enable .w1 else .finish s1) hn hs (fun _ => rfl)
      a c1 c2 e rest ht n
  constructor
  · intro rest ht hcode
    rw [Nat.add_comm]
    refine (hclear rest ht 1).trans ?_
    rw [if_neg hcode]
    exact stepN_finish (c := .instr .clrlatch) (p := .finish code) (by exact hn) rfl rfl
  · intro a' d1 d2 e' rest es' ht hcode code'
    have hlen : es.length = 4 := writeEvents_length_of_success hcode
    rw [List.append_assoc] at ht
    rw [show 8 + 2 * es'.length + 1 = 1 + 2 * es'.length + 2 * es.length by omega]
    refine (hclear ((answers [a', d1, d2, e']).take es'.length ++ rest) (by rw [hlen]; exact ht) _).trans ?_
    rw [if_pos hcode]
    refine (write_run (here := .enable) (ret := .finish) (by exact hn) rfl (fun _ => rfl) a' d1 d2 e' rest ?_ 1).trans ?_
    · show s.transport.drop es.length = _
      rw [hlen, ht]
      rfl
    · refine (stepN_finish (by exact hn) rfl rfl).trans ?_
      show _ = Host.Outcome.next _
      simp only [State.complete, List.drop_drop, ← hlen]
      rfl

/-- Settles O31: the read, then the completion. -/
theorem orientRunsToCompletion : Obligations.OrientRunsToCompletion := by
  intro s a c e g ds rest hs hn hds es ht code bytes
  rw [Nat.add_comm, read_run (here := .read) (ret := .finish) hn hs (fun _ => rfl) a c e g ds hds rest ht 1,
    stepN_finish (by exact hn) rfl rfl, takeAxes_of_read rfl]
  rfl

/-- Settles O32: the write, then the two internal steps after it. -/
theorem initConfiguresThenCalibrates : Obligations.InitConfiguresThenCalibrates := by
  intro s cfg a c1 c2 e rest hs hn es ht code sens
  rw [Nat.add_comm, write_run (here := .mode) (ret := .modeRet) hn hs (fun _ => rfl) a c1 c2 e rest ht 2,
    stepN_compute 1 (by exact hn) rfl rfl, State.cacheMode_eq, stepN_compute 0 (by exact hn) rfl rfl]
  rfl

/-- Settles O33: the loop's test, the read, C1's end, C2, the write and the WAIT. -/
theorem calibrationIterationRuns : Obligations.CalibrationIterationRuns := by
  intro s cfg a c e g b c1 c2 f st ds rest later hs hn hlt hds es bytes cal fs ht htimer
  rw [List.append_assoc] at ht
  have hbus : s.transport.drop es.length = (answers [b, c1, c2, f]).take fs.length ++ rest := by
    have hlen : ((readReplies a c e g ds).take es.length).length = es.length := by
      rw [List.length_take, readReplies_length a hds, Nat.min_eq_left (readEvents_length_le hds)]
    rw [ht, List.drop_left' hlen]
  rw [show 2 * es.length + 2 * fs.length + 5 = 0 + 2 + 2 * fs.length + 1 + 1 + 2 * es.length + 1 by omega]
  refine (stepN_loop_enter _ hn hs hlt).trans ?_
  refine (read_run (c := .instr (.init cfg)) (here := .c1 st) (ret := .c1Ret st) (by exact hn) rfl (fun _ => rfl)
    a c e g ds hds _ (by exact ht) _).trans ?_
  refine (stepN_compute _ (by exact hn) rfl rfl).trans ?_
  rw [takeCalibration_of_read rfl]
  refine (stepN_compute _ (by exact hn) rfl rfl).trans ?_
  refine (write_run (here := .c3 st (offsetsOf cal s.calT)) (ret := fun _ => .c4 st) (by exact hn) rfl (fun _ => rfl)
    b c1 c2 f rest hbus _).trans ?_
  refine (stepN_timer _ (by exact hn) rfl rfl rfl (by exact htimer) rfl).trans ?_
  simp only [List.drop_drop]
  rfl

end Sys2Proof.Machine
end

section
/-! An INIT that is accepted throughout (43_calibration R160 to R166): its iterations are those of any INIT, with the answers of
an accepted read and an accepted write. -/

namespace Sys2Proof.Machine

/-! ### An accepted read and write -/

/-- The AVAILABLE and READ answers of a drain of the bytes `bs` that is accepted throughout. -/
def acceptedDrain (bs : List Byte) : List (Byte × Byte) := bs.map fun v => (1, v)

theorem drained_accepted (bs : List Byte) : drained (acceptedDrain bs) = bs := by
  induction bs with
  | nil => rfl
  | cons v bs ih => exact congrArg (v :: ·) ih

theorem drainEvents_accepted_length (bs : List Byte) : (drainEvents (acceptedDrain bs)).length = 2 * bs.length := by
  induction bs with
  | nil => rfl
  | cons v bs ih =>
    show (drainEvents (acceptedDrain bs)).length + 2 = 2 * (bs.length + 1)
    rw [ih]
    rfl

theorem fillBuf_toList (b b' : Vector Byte 6) : fillBuf b b'.toList = b' := by
  ext i hi
  simp [fillBuf]

section
variable {P : Params} {reg : Byte} {b : Vector Byte 6}

theorem closeFails_zero (P : Params) : closeFails P 0#8 = false := by simp [closeFails]

theorem readBytes_accepted : readBytes P 1 0 6 (acceptedDrain b.toList) = b.toList := by
  simp [readBytes, closeFails_zero, drained_accepted]

theorem readCode_accepted : readCode P 1 0 6 (acceptedDrain b.toList) = 0 := by
  simp [readCode, closeFails_zero, drained_accepted]

theorem readEvents_accepted_length : (readEvents P reg 1 0 6 (acceptedDrain b.toList)).length = 16 := by
  simp [readEvents, closeFails_zero, drainEvents_accepted_length]

theorem acceptedDrain_length : (acceptedDrain b.toList).length = 6 := by simp [acceptedDrain]
end

/-! ### The loop -/

section
variable {s : State} {cfg : Byte} {rest : List BusReply} {later : List TimerReply}

/-- An iteration in which everything is accepted and the read gives `b`. -/
theorem acceptedIteration_run {st : Code} (b : Vector Byte 6) (hs : s.seq = .run (.instr (.init cfg)) (.loop st))
    (hn : s.noReset) (hlt : s.calI < s.params.calIterations) (ht : s.transport = readOk b ++ writeOk 6 ++ rest)
    (htimer : s.timer = .elapsed :: later) :
    ∃ n, stepN n s = .next { s with
      seq := .run (.instr (.init cfg)) (.loop st), calI := s.calI + 1, buf := b
      calX := (axesOf b.toList).1, calY := (axesOf b.toList).2.1, calZ := (axesOf b.toList).2.2
      transport := rest, timer := later, trace := s.trace ++ iterationEvents s.params s.calT b } := by
  have hwrite : (writeEvents s.params s.params.regOffBase
      (offsetsOf (calAfter (s.calX, s.calY, s.calZ) (readCode s.params 1 0 6 (acceptedDrain b.toList))
        (readBytes s.params 1 0 6 (acceptedDrain b.toList))) s.calT).burst 1 6 0).length = 4 :=
    writeEvents_length_of_success rfl
  have hread : (readReplies 0 1 0 6 (acceptedDrain b.toList)).length = 16 := readReplies_length 0 acceptedDrain_length
  have hdrop : s.transport.drop (16 + 4) = rest := by
    rw [ht]
    exact List.drop_left' (by rw [List.length_append]; exact congrArg (· + 4) hread)
  have hrun := calibrationIterationRuns s cfg 0 1 0 6 0 1 6 0 st (acceptedDrain b.toList) rest later hs hn hlt
    acceptedDrain_length (by rw [ht, readEvents_accepted_length, hwrite, List.take_of_length_le hread.le]; rfl) htimer
  rw [readEvents_accepted_length, hwrite, hdrop, readBytes_accepted, readCode_accepted, fillBuf_toList, List.append_assoc,
    List.append_assoc, ← List.append_assoc (readEvents _ _ _ _ _ _)] at hrun
  exact ⟨_, hrun⟩

theorem acceptedLoop_run (readings : List (Vector Byte 6)) : ∀ {s : State},
    s.seq = .run (.instr (.init cfg)) (.loop 0) → s.noReset → s.calI + readings.length = s.params.calIterations →
    s.transport = readings.flatMap (fun b => readOk b ++ writeOk 6) ++ rest →
    s.timer = List.replicate readings.length .elapsed ++ later →
    let cal := (readings.getLast?.map fun b => axesOf b.toList).getD (s.calX, s.calY, s.calZ)
    ∃ n, stepN n s = .next { s with
      seq := .idle, status := 0, calX := cal.1, calY := cal.2.1, calZ := cal.2.2, calI := s.params.calIterations
      buf := readings.getLast?.getD s.buf, transport := rest, timer := later
      trace := s.trace ++ readings.flatMap (iterationEvents s.params s.calT) ++ [.finish 0] } := by
  induction readings with
  | nil =>
    intro s hs hn hcount ht htimer
    have hcount : s.calI = s.params.calIterations := hcount
    have ht : s.transport = rest := ht
    have htimer : s.timer = later := htimer
    refine ⟨2, ?_⟩
    rw [stepN_loop_exit hn hs (by omega)]
    simp [hcount, ← ht, ← htimer]
  | cons b bs ih =>
    intro s hs hn hcount ht htimer
    rw [List.length_cons] at hcount htimer
    obtain ⟨m, hm⟩ := acceptedIteration_run b hs hn (by omega) (by rw [ht, List.flatMap_cons, List.append_assoc])
      (by rw [htimer, List.replicate_succ, List.cons_append])
    obtain ⟨n, hrest⟩ := ih (s := { s with
      seq := .run (.instr (.init cfg)) (.loop 0), calI := s.calI + 1, buf := b
      calX := (axesOf b.toList).1, calY := (axesOf b.toList).2.1, calZ := (axesOf b.toList).2.2
      transport := _, timer := _, trace := s.trace ++ iterationEvents s.params s.calT b })
      rfl (by exact hn) (by show s.calI + 1 + bs.length = s.params.calIterations; omega) rfl rfl
    refine ⟨m + n, (stepN_add m n hm).trans (hrest.trans ?_)⟩
    simp [List.getLast?_cons, Option.getD_map (fun b : Vector Byte 6 => axesOf b.toList)]
end

/-- Settles O34: the mode phase, then the loop by induction on the readings. -/
theorem acceptedInitCalibratesEveryReading : Obligations.AcceptedInitCalibratesEveryReading := by
  intro s cfg readings rest later hs hn hcount ht htimer t cal
  have hmode := initConfiguresThenCalibrates s cfg 0 1 1 0 (readings.flatMap (fun b => readOk b ++ writeOk 6) ++ rest) hs hn
    (by rw [ht, List.append_assoc]; rfl)
  rw [ht, List.append_assoc] at hmode
  obtain ⟨n, hrest⟩ := acceptedLoop_run (cfg := cfg) (rest := rest) (later := later) readings (s := { s with
    seq := .run (.instr (.init cfg)) (.loop 0), transport := readings.flatMap (fun b => readOk b ++ writeOk 6) ++ rest
    trace := s.trace ++ writeEvents s.params s.params.regMctl [cfg] 1 1 0
    modeCache := cfg.extractLsb' 0 2, sensCache := cfg &&& 0x0C, calT := t, calI := 0 })
    rfl (by exact hn) (by rw [Nat.zero_add]; exact hcount) rfl (by rw [hcount]; exact htimer)
  exact ⟨_, (stepN_add _ n hmode).trans hrest⟩

end Sys2Proof.Machine
end

section
/-! With every primitive answered every command finishes (70_reset R252): a write takes at most four replies, a read at most
sixteen, and INIT's loop is an induction on the iterations left. -/

namespace Sys2Proof.Machine

/-! ### Scripts with enough answers -/

/-- The script holds at least `n` replies and no reply is `never`. -/
def Answering (bus : List BusReply) (n : Nat) : Prop := n ≤ bus.length ∧ ∀ r ∈ bus, r ≠ .never

section
variable {bus : List BusReply} {m n k : Nat}

theorem Answering.drop (h : Answering bus (n + m)) (hk : k ≤ n) : Answering (bus.drop k) m := by
  refine ⟨?_, fun r hr => h.2 r (List.mem_of_mem_drop hr)⟩
  have := h.1
  rw [List.length_drop]
  omega

theorem Answering.exists_bytes (h : Answering bus n) : ∃ vs : List Byte, vs.length = n ∧ bus.take n = answers vs := by
  induction n generalizing bus with
  | zero => exact ⟨[], rfl, rfl⟩
  | succ n ih =>
    obtain ⟨hlen, hans⟩ := h
    cases bus with
    | nil => cases hlen
    | cons r rest =>
      obtain ⟨vs, hvs, htake⟩ := ih ⟨Nat.le_of_succ_le_succ hlen, fun r' hr' => hans r' (List.mem_cons_of_mem _ hr')⟩
      cases r with
      | never => exact absurd rfl (hans _ List.mem_cons_self)
      | answers v => exact ⟨v :: vs, by rw [List.length_cons, hvs], by rw [List.take_succ_cons, htake]; rfl⟩

/-- The answers a procedure uses are the first ones of its script. -/
theorem eq_take_append_drop {replies : List BusReply} (h : bus.take n = replies) (hk : k ≤ n) :
    bus = replies.take k ++ bus.drop k := by
  rw [← h, List.take_take, Nat.min_eq_left hk, List.take_append_drop]

theorem exists_pairs {vs : List Byte} (h : vs.length = 2 * n) :
    ∃ ds : List (Byte × Byte), ds.length = n ∧ vs = ds.flatMap fun d => [d.1, d.2] := by
  induction n generalizing vs with
  | zero => exact ⟨[], rfl, List.eq_nil_of_length_eq_zero h⟩
  | succ n ih =>
    match vs, h with
    | a :: b :: vs, h =>
      obtain ⟨ds, hds, rfl⟩ := ih (vs := vs) (by simpa [Nat.mul_add] using h)
      exact ⟨(a, b) :: ds, by rw [List.length_cons, hds], rfl⟩

theorem Answering.exists_write (h : Answering bus 4) : ∃ a c1 c2 e, bus.take 4 = answers [a, c1, c2, e] := by
  obtain ⟨vs, hvs, htake⟩ := h.exists_bytes
  match vs, hvs with
  | [a, c1, c2, e], _ => exact ⟨a, c1, c2, e, htake⟩

theorem Answering.exists_read (h : Answering bus 16) :
    ∃ a c e g ds, ds.length = 6 ∧ bus.take 16 = readReplies a c e g ds := by
  obtain ⟨vs, hvs, htake⟩ := h.exists_bytes
  match vs, hvs with
  | a :: c :: e :: g :: vs, hvs =>
    obtain ⟨ds, hds, rfl⟩ := exists_pairs (n := 6) (vs := vs) (by simpa using hvs)
    exact ⟨a, c, e, g, ds, hds, htake⟩

theorem Answering.of_add (h : Answering bus (n + m)) : Answering bus n := ⟨(Nat.le_add_right n m).trans h.1, h.2⟩
end

/-! ### Finishing with at most `k` primitives -/

/-- The run from `s` reaches Idle with at most `k` primitives recorded. -/
def State.Finishes (s : State) (k : Nat) : Prop :=
  ∃ n t es, stepN n s = .next t ∧ t.seq = .idle ∧ t.trace = s.trace ++ es ∧ primCount es ≤ k

section
variable {s u : State} {c : Command} {k m : Nat}

theorem finishes_of_finish {p : Label} {f : State → State} {code : Code} (hn : s.noReset) (hs : s.seq = .run c p)
    (ha : program c s.params p = some (.finish f code)) : s.Finishes k :=
  ⟨1, _, [.finish code], stepN_finish hn hs ha, rfl,
    by rw [State.complete_trace, (program_keepsControl ha s).trace], Nat.zero_le k⟩

/-- A run that has recorded `es`, followed by one that finishes. -/
theorem State.Finishes.of_run {n j : Nat} {es : List Event} (hrun : stepN n s = .next u) (htrace : u.trace = s.trace ++ es)
    (hes : es.length ≤ j) (hu : u.Finishes k) : s.Finishes (j + k) := by
  obtain ⟨n', t, fs, hrest, hidle, ht, hcount⟩ := hu
  refine ⟨n + n', t, es ++ fs, (stepN_add n n' hrun).trans hrest, hidle, by rw [ht, htrace, List.append_assoc], ?_⟩
  rw [primCount, List.countP_append]
  exact Nat.add_le_add (List.countP_le_length.trans hes) hcount

/-- An internal step records nothing. -/
theorem finishes_compute {p : Label} {f : State → State × Label} (hn : s.noReset) (hs : s.seq = .run c p)
    (ha : program c s.params p = some (.compute f))
    (hu : ({ (f s).1 with seq := .run c (f s).2 } : State).Finishes k) : s.Finishes k := by
  have htrace : (f s).1.trace = s.trace ++ [] := by rw [(program_keepsControl ha s).trace, List.append_nil]
  have := State.Finishes.of_run (stepN_compute 0 hn hs ha) htrace (Nat.le_refl 0) hu
  rwa [Nat.zero_add] at this

theorem finishes_write {reg : Byte} {bs : List Byte} {here : WPos → Label} {ret : Code → Label} (hn : s.noReset)
    (hs : s.seq = .run c (here .w1))
    (hp : ∀ w, program c s.params (here w) = some (memWrite s.params reg bs here ret w))
    (hbus : Answering s.transport (4 + m))
    (hret : ∀ code bus tr, Answering bus m →
      ({ s with seq := .run c (ret code), transport := bus, trace := tr } : State).Finishes k) :
    s.Finishes (4 + k) := by
  obtain ⟨a, c1, c2, e, htake⟩ := hbus.of_add.exists_write
  have hlen := writeEvents_length_le (P := s.params) (reg := reg) (bs := bs) (c1 := c1) (c2 := c2) (e := e)
  exact .of_run (write_run hn hs hp a c1 c2 e _ (eq_take_append_drop htake hlen) 0) rfl hlen
    (hret _ _ _ (hbus.drop hlen))

theorem finishes_read {reg : Byte} {here : RPos → Label} {ret : Code → Label} (hn : s.noReset)
    (hs : s.seq = .run c (here .r1))
    (hp : ∀ r, program c s.params (here r) = some (memRead s.params reg here ret r))
    (hbus : Answering s.transport (16 + m))
    (hret : ∀ code bus b tr, Answering bus m →
      ({ s with seq := .run c (ret code), buf := b, transport := bus, trace := tr } : State).Finishes k) :
    s.Finishes (16 + k) := by
  obtain ⟨a, c1, e, g, ds, hds, htake⟩ := hbus.of_add.exists_read
  have hlen := readEvents_length_le (P := s.params) (reg := reg) (c1 := c1) (e := e) (g := g) hds
  exact .of_run (read_run hn hs hp a c1 e g ds hds _ (eq_take_append_drop htake hlen) 0) rfl hlen
    (hret _ _ _ _ (hbus.drop hlen))

/-- INIT's loop, by induction on the iterations left: each has at most 16 primitives of its read, four of its write and one
WAIT (R162 to R166). -/
theorem finishes_loop {cfg : Byte} {st : Code} (j : Nat) : ∀ {s : State}, s.noReset →
    s.seq = .run (.instr (.init cfg)) (.loop st) → s.calI + j = s.params.calIterations →
    Answering s.transport (20 * j) → j ≤ s.timer.length → (∀ r ∈ s.timer, r ≠ .never) → s.Finishes (21 * j) := by
  induction j with
  | zero =>
    intro s hn hs hcount _ _ _
    exact ⟨2, _, [.finish st], stepN_loop_exit hn hs (by omega), rfl, rfl, Nat.le_refl 0⟩
  | succ j ih =>
    intro s hn hs hcount hbus hlen htimer
    have hbus : Answering s.transport (16 + (4 + 20 * j)) := by rwa [show 16 + (4 + 20 * j) = 20 * (j + 1) by omega]
    obtain ⟨later, hlater⟩ : ∃ later, s.timer = .elapsed :: later := by
      match hm : s.timer, hlen with
      | .elapsed :: later, _ => exact ⟨later, rfl⟩
      | .never :: later, _ => exact absurd rfl (htimer .never (by rw [hm]; exact List.mem_cons_self))
    rw [hlater] at hlen htimer
    rw [show 21 * (j + 1) = 16 + (4 + (1 + 21 * j)) by omega]
    have hlt : s.calI < s.params.calIterations := by omega
    refine finishes_compute hn hs rfl ?_
    simp only [if_pos hlt]
    refine finishes_read (c := .instr (.init cfg)) (here := .c1 st) (ret := .c1Ret st) (by exact hn) rfl (fun _ => rfl)
      (by exact hbus) fun code bus b tr hbus => ?_
    refine finishes_compute (by exact hn) rfl rfl ?_
    rw [State.takeCalibration_eq]
    refine finishes_compute (by exact hn) rfl rfl ?_
    refine finishes_write (here := .c3 st _) (ret := fun _ => .c4 st) (by exact hn) rfl (fun _ => rfl) hbus
      fun _ bus tr hbus => ?_
    refine .of_run (stepN_timer 0 (by exact hn) rfl rfl rfl (by exact hlater) rfl) rfl (Nat.le_refl 1) ?_
    exact ih (by exact hn) rfl (by show s.calI + 1 + j = s.params.calIterations; omega) hbus
      (Nat.le_of_succ_le_succ hlen) fun r hr => htimer r (List.mem_cons_of_mem _ hr)
end

/-- Settles O36: each command is its procedures and its own steps, whose bounds add up. -/
theorem everyCommandFinishesWithinItsBound : Obligations.EveryCommandFinishesWithinItsBound := by
  intro c s hs hn hbus htimer hlen hwaits
  show s.Finishes (maxPrims s.params c)
  have hbus : Answering s.transport (maxBusPrims s.params c) := ⟨hlen, hbus⟩
  cases c with
  | illegal => exact finishes_of_finish hn hs rfl
  | instr i =>
    cases i with
    | getmode | getsens => exact finishes_of_finish hn hs rfl
    | setmode _ | setint _ =>
      exact finishes_write (here := .write) (ret := .finish) (k := 0) (m := 0) hn hs (fun _ => rfl) hbus
        fun code _ _ _ => finishes_of_finish (p := .finish code) (by exact hn) rfl rfl
    | orient =>
      exact finishes_read (here := .read) (ret := .finish) (k := 0) (m := 0) hn hs (fun _ => rfl) hbus
        fun code _ _ _ _ => finishes_of_finish (p := .finish code) (by exact hn) rfl rfl
    | clrlatch =>
      refine finishes_write (here := .clear) (k := 4) (m := 4) hn hs (fun _ => rfl) hbus fun code bus tr hrest => ?_
      split
      · exact finishes_write (here := .enable) (ret := .finish) (k := 0) (m := 0) (by exact hn) rfl (fun _ => rfl) hrest
          fun code _ _ _ => finishes_of_finish (p := .finish code) (by exact hn) rfl rfl
      · exact finishes_of_finish (p := .finish code) (by exact hn) rfl rfl
    | init cfg =>
      refine finishes_write (here := .mode) (ret := .modeRet) hn hs (fun _ => rfl) hbus fun code bus tr hrest => ?_
      refine finishes_compute (by exact hn) rfl rfl ?_
      rw [State.cacheMode_eq]
      refine finishes_compute (by exact hn) rfl rfl ?_
      exact finishes_loop s.params.calIterations (by exact hn) rfl (Nat.zero_add _) hrest hwaits htimer

end Sys2Proof.Machine
end

section
/-! What an INIT that completes has recorded, whatever its agents did (43_calibration R167, R169): a run that reaches Idle has
had every primitive answered on its way, so it passes the end of each procedure. -/

namespace Sys2Proof.Machine

/-! ### One step of a run that reaches Idle -/

/-- Some run from `s` ends in `t`. -/
def State.Reaches (s t : State) : Prop := ∃ n, stepN n s = .next t

/-- The idle state `t` is reached from one in which the command `c` is at the label `p`, with the events `tr` recorded, CAL_I
at `i`, the parameters `P` and no further act of the Host. -/
def ReachedFrom (t : State) (c : Command) (P : Params) (tr : List Event) (p : Label) (i : Nat) : Prop :=
  t.seq = .idle ∧ ∃ s : State, s.Reaches t ∧ s.host = [] ∧ s.params = P ∧ s.trace = tr ∧ s.seq = .run c p ∧ s.calI = i

section
variable {s t u : State} {c : Command} {P : Params} {tr : List Event} {p : Label} {i : Nat}

theorem State.Reaches.of_step (h : s.Reaches t) (hidle : t.seq = .idle) (hbusy : s.seq ≠ .idle) (hstep : step s = .next u) :
    u.Reaches t := by
  obtain ⟨n, hn⟩ := h
  cases n with
  | zero => cases hn; exact absurd hidle hbusy
  | succ n => exact ⟨n, (stepN_step n hstep).symm.trans hn⟩

theorem not_reaches_of_step_self (hidle : t.seq = .idle) (hbusy : s.seq ≠ .idle) (hstep : step s = .next s) :
    ¬ s.Reaches t := by
  rintro ⟨n, hn⟩
  induction n with
  | zero => cases hn; exact hbusy hidle
  | succ n ih => exact ih ((stepN_step n hstep).symm.trans hn)

theorem reachedFrom_compute {f : State → State × Label} (h : ReachedFrom t c P tr p i)
    (ha : program c P p = some (.compute f)) :
    ∃ s : State, s.params = P ∧ s.calI = i ∧ ReachedFrom t c P tr (f s).2 (f s).1.calI := by
  obtain ⟨hidle, s, hreach, hh, rfl, rfl, hs, rfl⟩ := h
  have hkeep := program_keepsControl ha s
  exact ⟨s, rfl, rfl, hidle, _, hreach.of_step hidle (by rw [hs]; nofun) (step_run (noReset_of_host_nil hh) hs ha),
    hkeep.host.trans hh, hkeep.params, hkeep.trace, rfl, rfl⟩

/-- A run to Idle passes a primitive only by an answer to it, some raw byte: a command that holds for an answer that does not
come holds for ever. -/
theorem reachedFrom_prim {q : Prim} {k : Byte → State → State × Label} (h : ReachedFrom t c P tr p i)
    (ha : program c P p = some (.prim q k)) :
    ∃ v s, s.calI = i ∧ ReachedFrom t c P (tr ++ [.prim q (some (q.answer v))]) (k v s).2 (k v s).1.calI := by
  obtain ⟨hidle, s, hreach, hh, rfl, rfl, hs, rfl⟩ := h
  have hn := noReset_of_host_nil hh
  have hhold := hreach.of_step hidle (by rw [hs]; nofun) (step_run hn hs ha)
  have hstep := step_wait (s := s.perform c p (.prim q k)) (by exact hn) rfl ha
  cases hreply : (s.perform c p (.prim q k)).takeReply q with
  | none =>
    rw [State.resume_unanswered hreply] at hstep
    exact absurd hhold (not_reaches_of_step_self hidle nofun hstep)
  | some reply =>
    obtain ⟨v, w⟩ := reply
    rw [State.resume_answered hreply] at hstep
    obtain ⟨hwhost, hwparams, hwcalI⟩ : w.host = s.host ∧ w.params = s.params ∧ w.calI = s.calI := by
      rcases State.takeReply_cases hreply with ⟨-, -, rest, -, rfl⟩ | ⟨-, rest, -, rfl⟩ <;> exact ⟨rfl, rfl, rfl⟩
    have hkeep := program_keepsControl ha v w
    exact ⟨v, w, hwcalI, hidle, _, hhold.of_step hidle nofun hstep, (hkeep.host.trans hwhost).trans hh,
      hkeep.params.trans hwparams, rfl, rfl, rfl⟩

/-- The same for a primitive whose answer leaves CAL_I alone. -/
theorem reachedFrom_bus {q : Prim} {k : Byte → State → State × Label} (h : ReachedFrom t c P tr p i)
    (ha : program c P p = some (.prim q k)) (hk : ∀ v s, (k v s).1.calI = s.calI) :
    ∃ v s, ReachedFrom t c P (tr ++ [.prim q (some (q.answer v))]) (k v s).2 i := by
  obtain ⟨v, s, hs, hnext⟩ := reachedFrom_prim h ha
  rw [hk v s, hs] at hnext
  exact ⟨v, s, hnext⟩

theorem reachedFrom_finish {f : State → State} {code : Code} (h : ReachedFrom t c P tr p i)
    (ha : program c P p = some (.finish f code)) : t.status = code ∧ t.trace = tr ++ [.finish code] := by
  obtain ⟨hidle, s, hreach, hh, rfl, rfl, hs, rfl⟩ := h
  have hkeep := program_keepsControl ha s
  obtain ⟨n, hn⟩ := hreach.of_step hidle (by rw [hs]; nofun) (step_run (noReset_of_host_nil hh) hs ha)
  have hdone := stepN_idle_of_host_nil (s := (f s).complete code) rfl (hkeep.host.trans hh) n
  cases hdone.symm.trans hn
  exact ⟨rfl, by rw [State.complete_trace, hkeep.trace]⟩
end

/-! ### The procedures -/

section
variable {t : State} {c : Command} {P : Params} {tr : List Event} {i : Nat}

theorem countAccepted_iff (v : Byte) (n : Nat) : countAccepted v n = true ↔ v.toNat = n := beq_iff_eq

theorem countAccepted_ofNat_iff (v : Byte) {n : Nat} (hn : n < 256) : countAccepted v n = true ↔ v = BitVec.ofNat 8 n := by
  rw [countAccepted_iff, ← BitVec.toNat_inj, BitVec.toNat_ofNat, Nat.mod_eq_of_lt hn]

theorem reachedFrom_write {reg : Byte} {bs : List Byte} {here : WPos → Label} {ret : Code → Label}
    (h : ReachedFrom t c P tr (here .w1) i) (hp : ∀ w, program c P (here w) = some (memWrite P reg bs here ret w)) :
    ∃ c1 c2 e, ReachedFrom t c P (tr ++ writeEvents P reg bs c1 c2 e) (ret (writeCode bs.length c1 c2 e)) i := by
  obtain ⟨_, _, h⟩ := reachedFrom_bus h (hp .w1) fun _ _ => rfl
  obtain ⟨c1, _, h⟩ := reachedFrom_bus h (hp .w2) fun _ _ => rfl
  dsimp only at h
  split at h
  case isFalse hc1 =>
    rw [countAccepted_ofNat_iff c1 (by decide)] at hc1
    exact ⟨c1, 0, 0, by simpa [writeEvents, writeCode, hc1, Prim.answer] using h⟩
  case isTrue hc1 =>
    obtain rfl := (countAccepted_ofNat_iff c1 (by decide)).mp hc1
    obtain ⟨c2, _, h⟩ := reachedFrom_bus h (hp .w3) fun _ _ => rfl
    dsimp only at h
    split at h
    case isFalse hc2 =>
      rw [countAccepted_iff] at hc2
      exact ⟨1, c2, 0, by simpa [writeEvents, writeCode, hc2, Prim.answer] using h⟩
    case isTrue hc2 =>
      rw [countAccepted_iff] at hc2
      obtain ⟨e, _, h⟩ := reachedFrom_bus h (hp .w4) fun _ _ => rfl
      exact ⟨1, c2, e, by simpa [writeEvents, writeCode, hc2, Prim.answer, statusOf, codeOfStatus] using h⟩

/-- The drain from index `j` on, by recursion on the bytes left (R103). -/
theorem reachedFrom_drain {reg : Byte} {here : RPos → Label} {ret : Code → Label} {tr : List Event}
    (hp : ∀ r, program c P (here r) = some (memRead P reg here ret r)) (j : Fin 6)
    (h : ReachedFrom t c P tr (here (.r5 j)) i) :
    ∃ ds code, ds.length = 6 - j.val ∧ ReachedFrom t c P (tr ++ drainEvents ds) (ret code) i := by
  obtain ⟨a, _, h⟩ := reachedFrom_bus h (hp (.r5 j)) fun _ _ => rfl
  dsimp only at h
  split at h
  case isTrue ha =>
    refine ⟨(a, 0) :: List.replicate (5 - j.val) (0, 0), lengthMismatch, ?_, ?_⟩
    · rw [List.length_cons, List.length_replicate]
      omega
    · rw [drainEvents, if_pos ha]
      exact h
  case isFalse ha =>
    obtain ⟨b, _, h⟩ := reachedFrom_bus h (hp (.r6 j)) fun _ _ => rfl
    dsimp only [afterByte] at h
    split at h
    case isTrue hj =>
      obtain ⟨ds, code, hds, h⟩ := reachedFrom_drain hp ⟨j.val + 1, hj⟩ h
      refine ⟨(a, b) :: ds, code, ?_, ?_⟩
      · rw [List.length_cons, hds]
        show 6 - (j.val + 1) + 1 = 6 - j.val
        omega
      · rw [drainEvents, if_neg ha]
        simpa [Prim.answer] using h
    case isFalse hj =>
      refine ⟨[(a, b)], success, ?_, ?_⟩
      · show 1 = 6 - j.val
        omega
      · rw [drainEvents, if_neg ha]
        simpa [Prim.answer, drainEvents] using h
termination_by 6 - j.val

theorem closeFails_iff (e : Byte) :
    (P.readChecksAddrClose && codeOfStatus (statusOf e) != success) = true ↔ closeFails P e = true := by
  simp only [closeFails, Bool.and_eq_true, bne_iff_ne, ne_eq, codeOfStatus_eq_success_iff, statusOf]

theorem reachedFrom_read {reg : Byte} {here : RPos → Label} {ret : Code → Label} {tr : List Event}
    (h : ReachedFrom t c P tr (here .r1) i) (hp : ∀ r, program c P (here r) = some (memRead P reg here ret r)) :
    ∃ c1 e g ds code, ds.length = 6 ∧ ReachedFrom t c P (tr ++ readEvents P reg c1 e g ds) (ret code) i := by
  have hpad : (List.replicate 6 ((0, 0) : Byte × Byte)).length = 6 := List.length_replicate
  obtain ⟨_, _, h⟩ := reachedFrom_bus h (hp .r1) fun _ _ => rfl
  obtain ⟨c1, _, h⟩ := reachedFrom_bus h (hp .r2) fun _ _ => rfl
  dsimp only at h
  split at h
  case isFalse hc1 =>
    rw [countAccepted_ofNat_iff c1 (by decide)] at hc1
    exact ⟨c1, 0, 0, _, _, hpad, by simpa [readEvents, hc1, Prim.answer] using h⟩
  case isTrue hc1 =>
    obtain rfl := (countAccepted_ofNat_iff c1 (by decide)).mp hc1
    obtain ⟨e, _, h⟩ := reachedFrom_bus h (hp .r3) fun _ _ => rfl
    dsimp only at h
    split at h
    case isTrue he =>
      rw [closeFails_iff] at he
      exact ⟨1, e, 0, _, _, hpad, by simpa [readEvents, he, Prim.answer, statusOf] using h⟩
    case isFalse he =>
      rw [closeFails_iff] at he
      obtain ⟨g, _, h⟩ := reachedFrom_bus h (hp .r4) fun _ _ => rfl
      dsimp only at h
      split at h
      case isFalse hg =>
        rw [countAccepted_ofNat_iff g (by decide)] at hg
        exact ⟨1, e, g, _, _, hpad, by simpa [readEvents, he, hg, Prim.answer, statusOf] using h⟩
      case isTrue hg =>
        obtain rfl := (countAccepted_ofNat_iff g (by decide)).mp hg
        obtain ⟨ds, code, hds, h⟩ := reachedFrom_drain hp 0 h
        exact ⟨1, e, 6, ds, code, hds, by simpa [readEvents, he, Prim.answer, statusOf] using h⟩

/-! ### INIT -/

/-- The events of one iteration of INIT's loop: a read, an attempt at the offset write and the WAIT (R167). -/
def IsIteration (P : Params) (g : List Event) : Prop :=
  ∃ (d1 d2 d3 e1 e2 e3 : Byte) (ds : List (Byte × Byte)) (o : Offsets), ds.length = 6 ∧
    g = readEvents P P.regOutBase d1 d2 d3 ds ++ writeEvents P P.regOffBase o.burst e1 e2 e3 ++
      [.prim (.wait P.calDelayMs) (some .ack)]

/-- An iteration, whatever its read and its write return (R163, R165). -/
theorem reachedFrom_iteration {cfg : Byte} {st : Code} {tr : List Event}
    (h : ReachedFrom t (.instr (.init cfg)) P tr (.loop st) i) (hlt : i < P.calIterations) :
    ∃ g, IsIteration P g ∧ ReachedFrom t (.instr (.init cfg)) P (tr ++ g) (.loop st) (i + 1) := by
  obtain ⟨s, -, hi, h⟩ := reachedFrom_compute h rfl
  rw [hi, if_pos hlt] at h
  obtain ⟨d1, d2, d3, ds, code, hds, h⟩ := reachedFrom_read (here := .c1 st) (ret := .c1Ret st) h fun _ => rfl
  obtain ⟨_, -, hi, h⟩ := reachedFrom_compute h rfl
  rw [State.takeCalibration_calI, hi] at h
  obtain ⟨u, _, hi, h⟩ := reachedFrom_compute h rfl
  rw [hi] at h
  obtain ⟨e1, e2, e3, h⟩ := reachedFrom_write (here := .c3 st u.offsets) (ret := fun _ => .c4 st) h fun _ => rfl
  obtain ⟨_, w, hi, h⟩ := reachedFrom_prim h rfl
  rw [List.append_assoc, List.append_assoc] at h
  refine ⟨_, ⟨d1, d2, d3, e1, e2, e3, ds, u.offsets, hds, rfl⟩, ?_⟩
  rw [List.append_assoc, ← hi]
  exact h

/-- The loop, by induction on the iterations left (R162). -/
theorem reachedFrom_loop {cfg : Byte} {st : Code} (n : Nat) : ∀ {tr : List Event} {i : Nat}, i + n = P.calIterations →
    ReachedFrom t (.instr (.init cfg)) P tr (.loop st) i →
    ∃ groups : List (List Event), groups.length = n ∧ (∀ g ∈ groups, IsIteration P g) ∧ t.status = st ∧
      t.trace = tr ++ groups.flatten ++ [.finish st] := by
  induction n with
  | zero =>
    intro tr i hi h
    obtain ⟨s, -, hcalI, h⟩ := reachedFrom_compute h rfl
    rw [hcalI, if_neg (by omega)] at h
    obtain ⟨hstatus, htrace⟩ := reachedFrom_finish h rfl
    exact ⟨[], rfl, nofun, hstatus, by simpa using htrace⟩
  | succ n ih =>
    intro tr i hi h
    obtain ⟨g, hg, h⟩ := reachedFrom_iteration h (by omega)
    obtain ⟨groups, hlen, hgroups, hstatus, htrace⟩ := ih (by omega) h
    exact ⟨g :: groups, by rw [List.length_cons, hlen], List.forall_mem_cons.mpr ⟨hg, hgroups⟩, hstatus,
      by simpa using htrace⟩
end

/-- Settles O35: the mode phase, then the loop. -/
theorem initAlwaysMakesEveryOffsetWrite : Obligations.InitAlwaysMakesEveryOffsetWrite := by
  intro n s t cfg hs hh hrun hidle
  have h : ReachedFrom t (.instr (.init cfg)) s.params s.trace (.mode .w1) s.calI :=
    ⟨hidle, s, ⟨n, hrun⟩, hh, rfl, rfl, hs, rfl⟩
  obtain ⟨c1, c2, e, h⟩ := reachedFrom_write (here := .mode) (ret := .modeRet) h fun _ => rfl
  obtain ⟨_, -, -, h⟩ := reachedFrom_compute h rfl
  obtain ⟨_, -, -, h⟩ := reachedFrom_compute h rfl
  obtain ⟨groups, hlen, hgroups, hstatus, htrace⟩ := reachedFrom_loop s.params.calIterations (Nat.zero_add _) h
  exact ⟨c1, c2, e, groups, htrace, hstatus, hlen, hgroups⟩

end Sys2Proof.Machine
end

section
/-! BUF, CAL_T and CAL_I are written before they are read in every command (10_state R30, R31): two runs that differ in them
only go on side by side, and from each label on they agree on what the command has still to read. -/

namespace Sys2Proof.Machine

/-! ### What a command has still to read -/

/-- The registers whose values before a command no one observes. -/
structure Hidden where
  buf : Vector Byte 6
  calT : Byte
  calI : Nat

def State.hidden (s : State) : Hidden := ⟨s.buf, s.calT, s.calI⟩

def State.withHidden (s : State) (h : Hidden) : State := { s with buf := h.buf, calT := h.calT, calI := h.calI }

/-- The labels of INIT's loop, where CAL_T and CAL_I have been set (R161, R162). -/
def Label.inLoop : Label → Prop
  | .loop _ | .c1 _ _ | .c1Ret _ _ | .c2 _ | .c3 _ _ _ | .c4 _ => True
  | .start | .write _ | .read _ | .clear _ | .enable _ | .mode _ | .modeRet _ | .target _ | .finish _ => False

/-- How many bytes a read has drained at a label (R103). -/
def RPos.drained : RPos → Nat
  | .r1 | .r2 | .r3 | .r4 => 0
  | .r5 i | .r6 i => i.val

/-- The bytes of BUF that the command has drained and may still read: all six where a read has returned Success. -/
def readsByte (c : Command) (p : Label) (j : Nat) : Prop :=
  match p with
  | .read r | .c1 _ r => j < r.drained
  | .c1Ret _ code => code = success
  | .finish code => c = .instr .orient ∧ code = success
  | .start | .write _ | .clear _ | .enable _ | .mode _ | .modeRet _ | .target _ | .loop _ | .c2 _ | .c3 _ _ _ | .c4 _ => False

/-- The two agree on what the command has still to read from its label on. -/
structure Hidden.Agrees (c : Command) (p : Label) (h h' : Hidden) : Prop where
  loop : p.inLoop → h'.calT = h.calT ∧ h'.calI = h.calI
  bytes : ∀ j (hj : j < 6), readsByte c p j → h'.buf[j] = h.buf[j]

/-- From a label with no more to read, any two agree. -/
theorem Hidden.agrees_of_unread {c : Command} {p : Label} (hloop : ¬ p.inLoop) (hbytes : ∀ j, ¬ readsByte c p j)
    (h h' : Hidden) : h.Agrees c p h' :=
  ⟨fun hp => absurd hp hloop, fun j _ hp => absurd hp (hbytes j)⟩

theorem Hidden.agrees_start (c : Command) (h h' : Hidden) : h.Agrees c (startLabel c) h' := by
  rcases c with i | _
  · cases i with
    | orient => exact agrees_of_unread (by exact id) (by exact fun j => Nat.not_lt_zero j) h h'
    | _ => exact agrees_of_unread (by exact id) (by exact fun _ => id) h h'
  · exact agrees_of_unread (by exact id) (by exact fun _ => id) h h'

/-! ### The acts -/

/-- The act does the same on both sides and leaves them in agreement at its next label. -/
def Act.Parallel (c : Command) (p : Label) : Act → Prop
  | .prim _ k => ∀ v (s : State) h, s.hidden.Agrees c p h →
      ∃ h', k v (s.withHidden h) = ((k v s).1.withHidden h', (k v s).2) ∧ (k v s).1.hidden.Agrees c (k v s).2 h'
  | .compute f => ∀ (s : State) h, s.hidden.Agrees c p h →
      ∃ h', f (s.withHidden h) = ((f s).1.withHidden h', (f s).2) ∧ (f s).1.hidden.Agrees c (f s).2 h'
  | .finish f _ => ∀ (s : State) h, s.hidden.Agrees c p h → ∃ h', f (s.withHidden h) = (f s).withHidden h'

section
variable {c : Command} {P : Params}

theorem memWrite_parallel {reg : Byte} {bs : List Byte} {here : WPos → Label} {ret : Code → Label} {w : WPos}
    (hhere : ∀ {h h' : Hidden} w', h.Agrees c (here w) h' → h.Agrees c (here w') h')
    (hret : ∀ {h h' : Hidden} code, h.Agrees c (here w) h' → h.Agrees c (ret code) h') :
    (memWrite P reg bs here ret w).Parallel c (here w) := by
  cases w with
  | w1 => exact fun v s h hag => ⟨h, rfl, hhere _ hag⟩
  | w2 | w3 =>
    refine fun v s h hag => ⟨h, rfl, ?_⟩
    dsimp only
    split
    · exact hhere _ hag
    · exact hret _ hag
  | w4 => exact fun v s h hag => ⟨h, rfl, hret _ hag⟩

/-- A read drains the same bytes on both sides, and returns Success only after all six. -/
theorem memRead_parallel {reg : Byte} {here : RPos → Label} {ret : Code → Label} {r : RPos}
    (hloop : ∀ r', (here r').inLoop = (here r).inLoop) (hloopRet : ∀ code, (ret code).inLoop = (here r).inLoop)
    (hbytes : ∀ r' j, readsByte c (here r') j ↔ j < r'.drained)
    (hbytesRet : ∀ code j, readsByte c (ret code) j → code = success) :
    (memRead P reg here ret r).Parallel c (here r) := by
  have hgo {h h' : Hidden} (hag : h.Agrees c (here r) h') (r' : RPos) (hr : r'.drained ≤ r.drained) :
      h.Agrees c (here r') h' :=
    ⟨by rw [hloop]; exact hag.loop, fun j hj hread => hag.bytes j hj ((hbytes r j).mpr
      (((hbytes r' j).mp hread).trans_le hr))⟩
  have hfail {h h' : Hidden} (hag : h.Agrees c (here r) h') (code : Code) (hcode : code ≠ success) :
      h.Agrees c (ret code) h' :=
    ⟨by rw [hloopRet]; exact hag.loop, fun j _ hread => absurd (hbytesRet code j hread) hcode⟩
  cases r with
  | r1 => exact fun v s h hag => ⟨h, rfl, hgo hag _ (Nat.le_refl _)⟩
  | r2 | r4 =>
    refine fun v s h hag => ⟨h, rfl, ?_⟩
    dsimp only
    split
    · exact hgo hag _ (Nat.le_refl _)
    · exact hfail hag _ (by decide)
  | r3 =>
    refine fun v s h hag => ⟨h, rfl, ?_⟩
    dsimp only
    split
    next hcode => exact hfail hag _ (by simpa using (Bool.and_eq_true_iff.mp hcode).2)
    next => exact hgo hag _ (Nat.le_refl _)
  | r5 i =>
    refine fun v s h hag => ⟨h, rfl, ?_⟩
    dsimp only
    split
    · exact hfail hag _ (by decide)
    · exact hgo hag _ (Nat.le_refl _)
  | r6 i =>
    refine fun v s h hag => ⟨{ h with buf := h.buf.set i v }, rfl, ?_⟩
    have hset (j : Nat) (hj : j < 6) (hle : j ≤ i.val) : (h.buf.set i v)[j] = (s.buf.set i v)[j] := by
      rw [Vector.getElem_set, Vector.getElem_set]
      split
      · rfl
      next hne => exact hag.bytes j hj ((hbytes _ j).mpr (show j < i.val by omega))
    dsimp only [afterByte]
    split
    next hi =>
      exact ⟨by rw [hloop]; exact hag.loop, fun j hj hread => hset j hj (Nat.le_of_lt_succ ((hbytes _ j).mp hread))⟩
    next hi => exact ⟨by rw [hloopRet]; exact hag.loop, fun j hj _ => hset j hj (by omega)⟩

/-- A read that has returned Success has left the same six bytes on both sides. -/
theorem Hidden.Agrees.buf_eq {p : Label} {h h' : Hidden} (hag : h.Agrees c p h') (hread : ∀ j, readsByte c p j) :
    h'.buf = h.buf :=
  Vector.ext fun j hj => hag.bytes j hj (hread j)

theorem takeCalibration_withHidden {s : State} {h : Hidden} {code : Code} (hbuf : code = success → h.buf = s.buf) :
    (s.withHidden h).takeCalibration code = (s.takeCalibration code).withHidden h := by
  unfold State.takeCalibration
  split
  next hcode => simp only [State.withHidden, hbuf hcode]
  next => rfl

theorem takeAxes_withHidden {s : State} {h : Hidden} {code : Code} (hbuf : code = success → h.buf = s.buf) :
    (s.withHidden h).takeAxes code = (s.takeAxes code).withHidden h := by
  unfold State.takeAxes
  split
  next hcode => simp only [State.withHidden, hbuf hcode]
  next => rfl

theorem cacheMode_withHidden (s : State) (h : Hidden) (mask : Byte) (code : Code) :
    (s.withHidden h).cacheMode mask code = (s.cacheMode mask code).withHidden h := by
  rw [State.cacheMode_eq, State.cacheMode_eq]
  rfl

/-- INIT sets CAL_T and CAL_I before its loop, and takes BUF only after a read that returned Success (R161 to R164). -/
theorem initProgram_parallel {cfg : Byte} {p : Label} {a : Act} (ha : initProgram P cfg p = some a) :
    a.Parallel (.instr (.init cfg)) p := by
  cases p with
  | start | write _ | read _ | clear _ | enable _ => cases ha
  | mode w =>
    cases ha
    exact memWrite_parallel (fun _ _ => Hidden.agrees_of_unread (by nofun) (by nofun) _ _)
      fun _ _ => Hidden.agrees_of_unread (by nofun) (by nofun) _ _
  | modeRet st =>
    cases ha
    exact fun s h _ => ⟨h, congrArg (·, Label.target st) (cacheMode_withHidden s h cfg st),
      Hidden.agrees_of_unread (by nofun) (by nofun) _ _⟩
  | target st =>
    cases ha
    exact fun s h _ => ⟨⟨h.buf, decodeScale s.sensCache, 0⟩, rfl, fun _ => ⟨rfl, rfl⟩, nofun⟩
  | loop st =>
    cases ha
    intro s h hag
    obtain ⟨hcalT, hcalI⟩ := hag.loop trivial
    refine ⟨h, congrArg (fun n => (s.withHidden h, if n < P.calIterations then Label.c1 st .r1 else .finish st)) hcalI, ?_⟩
    dsimp only
    split
    · exact ⟨fun _ => ⟨hcalT, hcalI⟩, nofun⟩
    · exact Hidden.agrees_of_unread (by nofun) (by nofun) _ _
  | c1 st r =>
    cases ha
    exact memRead_parallel (fun _ => rfl) (fun _ => rfl) (fun _ _ => Iff.rfl) fun _ _ => id
  | c1Ret st code =>
    cases ha
    intro s h hag
    have hcal := takeCalibration_withHidden (s := s) (h := h) fun hcode => hag.buf_eq fun _ => hcode
    refine ⟨h, congrArg (·, Label.c2 st) hcal, fun _ => ?_, nofun⟩
    simpa [State.hidden] using hag.loop trivial
  | c2 st =>
    cases ha
    intro s h hag
    have hoffsets : (s.withHidden h).offsets = s.offsets := congrArg (Offsets.mk _ _ ∘ offsetZ s.calZ) (hag.loop trivial).1
    exact ⟨h, congrArg (fun o => (s.withHidden h, Label.c3 st o .w1)) hoffsets, hag.loop, nofun⟩
  | c3 st o w =>
    cases ha
    exact memWrite_parallel (fun _ hag => ⟨hag.loop, nofun⟩) fun _ hag => ⟨hag.loop, nofun⟩
  | c4 st =>
    cases ha
    intro v s h hag
    obtain ⟨hcalT, hcalI⟩ := hag.loop trivial
    exact ⟨{ h with calI := h.calI + 1 }, rfl, fun _ => ⟨hcalT, congrArg (· + 1) hcalI⟩, nofun⟩
  | finish st => cases ha; exact fun s h _ => ⟨h, rfl⟩

/-- SETMODE, SETINT and CLRLATCH read none of the three registers. -/
theorem memWrite_parallel_of_unread {reg : Byte} {bs : List Byte} {here : WPos → Label} {ret : Code → Label} {w : WPos}
    (hhere : ∀ h h' w', Hidden.Agrees c (here w') h h') (hret : ∀ h h' code, Hidden.Agrees c (ret code) h h') :
    (memWrite P reg bs here ret w).Parallel c (here w) :=
  memWrite_parallel (fun w' _ => hhere _ _ w') fun code _ => hret _ _ code

theorem program_parallel {p : Label} {a : Act} (ha : program c P p = some a) : a.Parallel c p := by
  cases c with
  | illegal =>
    cases p with
    | start => cases ha; exact fun s h _ => ⟨h, rfl⟩
    | _ => cases ha
  | instr i =>
    cases i with
    | init cfg => exact initProgram_parallel ha
    | getmode | getsens =>
      cases p with
      | start => cases ha; exact fun s h _ => ⟨h, rfl⟩
      | _ => cases ha
    | setmode mask =>
      cases p with
      | write w =>
        cases ha
        exact memWrite_parallel_of_unread (fun _ _ _ => Hidden.agrees_of_unread (by nofun) (by nofun) _ _)
          fun _ _ _ => Hidden.agrees_of_unread (by nofun) (by nofun) _ _
      | finish code => cases ha; exact fun s h _ => ⟨h, cacheMode_withHidden s h mask code⟩
      | _ => cases ha
    | setint mask =>
      cases p with
      | write w =>
        cases ha
        exact memWrite_parallel_of_unread (fun _ _ _ => Hidden.agrees_of_unread (by nofun) (by nofun) _ _)
          fun _ _ _ => Hidden.agrees_of_unread (by nofun) (by nofun) _ _
      | finish code => cases ha; exact fun s h _ => ⟨h, rfl⟩
      | _ => cases ha
    | clrlatch =>
      cases p with
      | clear w =>
        cases ha
        refine memWrite_parallel_of_unread (fun _ _ _ => Hidden.agrees_of_unread (by nofun) (by nofun) _ _) fun _ _ _ => ?_
        split
        · exact Hidden.agrees_of_unread (by nofun) (by nofun) _ _
        · exact Hidden.agrees_of_unread (by nofun) (by nofun) _ _
      | enable w =>
        cases ha
        exact memWrite_parallel_of_unread (fun _ _ _ => Hidden.agrees_of_unread (by nofun) (by nofun) _ _)
          fun _ _ _ => Hidden.agrees_of_unread (by nofun) (by nofun) _ _
      | finish code => cases ha; exact fun s h _ => ⟨h, rfl⟩
      | _ => cases ha
    | orient =>
      cases p with
      | read r =>
        cases ha
        exact memRead_parallel (fun _ => rfl) (fun _ => rfl) (fun _ _ => Iff.rfl) fun _ _ hread => hread.2
      | finish code =>
        cases ha
        exact fun s h hag => ⟨h, takeAxes_withHidden fun hcode => hag.buf_eq fun _ => ⟨rfl, hcode⟩⟩
      | _ => cases ha
end

/-! ### The steps -/

/-- The hidden registers of `s` and `h` agree on what the command that SEQ holds has still to read. -/
def State.AgreesWith (s : State) (h : Hidden) : Prop :=
  match s.seq with
  | .idle => True
  | .run c p | .wait c p _ => s.hidden.Agrees c p h

/-- The step answers the same state on both sides but for the hidden registers, which go on in agreement. -/
def StepsInParallel (f : State → Host.Outcome State Fault Refusal) (s t : State) (h : Hidden) : Prop :=
  ∃ h', f (s.withHidden h) = .next (t.withHidden h') ∧ t.AgreesWith h'

section
variable {s t : State} {c : Command} {h : Hidden}

theorem takeReply_withHidden (s : State) (h : Hidden) (q : Prim) :
    (s.withHidden h).takeReply q = (s.takeReply q).map fun r => (r.1, r.2.withHidden h) := by
  unfold State.takeReply
  split
  · rcases hscript : s.timer with _ | ⟨_ | _, rest⟩ <;> simp [State.withHidden, hscript]
  · rcases hscript : s.transport with _ | ⟨_ | _, rest⟩ <;> simp [State.withHidden, hscript]

theorem advance_idle (hs : s.seq = .idle) (hh : ∀ w rest, s.host ≠ .issue w :: rest) : advance s = .next s := by
  unfold advance
  rw [hs]
  dsimp only
  split
  next w rest hhost => exact absurd hhost (hh w rest)
  next => rfl

theorem agreesWith_run {p : Label} (hs : s.seq = .run c p) (hag : s.AgreesWith h) : s.hidden.Agrees c p h := by
  rwa [State.AgreesWith, hs] at hag

theorem agreesWith_wait {p : Label} {q : Prim} (hs : s.seq = .wait c p q) (hag : s.AgreesWith h) :
    s.hidden.Agrees c p h := by
  rwa [State.AgreesWith, hs] at hag

theorem execCommand_parallel (hag : s.AgreesWith h) (ht : execCommand c s = .next t) :
    StepsInParallel (execCommand c) s t h := by
  unfold StepsInParallel
  rw [execCommand_eq] at ht ⊢
  rcases drive_cases ht with ⟨p, a, hs, ha, rfl⟩ | ⟨p, q, k, hs, ha, rfl⟩
  · have hag := agreesWith_run hs hag
    rw [drive_run (s := s.withHidden h) (prog := program c (s.withHidden h).params) hs ha]
    cases a with
    | prim q k => exact ⟨h, rfl, hag⟩
    | compute f =>
      obtain ⟨h', hf, hag'⟩ := program_parallel ha s h hag
      exact ⟨h', by rw [State.perform, hf]; rfl, hag'⟩
    | finish f code =>
      obtain ⟨h', hf⟩ := program_parallel ha s h hag
      exact ⟨h', by rw [State.perform, hf]; rfl, trivial⟩
  · rw [drive_wait (s := s.withHidden h) (prog := program c (s.withHidden h).params) hs ha]
    cases hreply : s.takeReply q with
    | none =>
      rw [State.resume_unanswered hreply, State.resume_unanswered (by rw [takeReply_withHidden, hreply]; rfl)]
      exact ⟨h, rfl, hag⟩
    | some reply =>
      obtain ⟨v, s'⟩ := reply
      have hhidden : s'.hidden = s.hidden := by
        rcases State.takeReply_cases hreply with ⟨-, -, rest, -, rfl⟩ | ⟨-, rest, -, rfl⟩ <;> rfl
      obtain ⟨h', hk, hag'⟩ := program_parallel ha v s' h (hhidden ▸ agreesWith_wait hs hag)
      rw [State.resume_answered hreply,
        State.resume_answered (s' := s'.withHidden h) (v := v) (by rw [takeReply_withHidden, hreply]; rfl), hk]
      exact ⟨h', rfl, hag'⟩

theorem advance_parallel (hag : s.AgreesWith h) (ht : advance s = .next t) : StepsInParallel advance s t h := by
  rcases advance_cases ht with ⟨hs, w, rest, hh, rfl⟩ | ⟨hs, hh, rfl⟩ | ⟨c, hc, hexec⟩
  · exact ⟨h, advance_issue (s := s.withHidden h) hs hh, Hidden.agrees_start (decode w) _ h⟩
  · exact ⟨h, advance_idle (by exact hs) (by exact hh), hag⟩
  · obtain ⟨h', hstep, hag'⟩ := execCommand_parallel hag hexec
    exact ⟨h', (advance_of_command (s := s.withHidden h) hc).trans hstep, hag'⟩

theorem step_parallel (hag : s.AgreesWith h) (ht : step s = .next t) : StepsInParallel step s t h := by
  rcases step_cases ht with ⟨rest, hh, rfl⟩ | ⟨n, rest, hh, hadv⟩ | ⟨hn, hadv⟩
  · exact ⟨({ s with host := rest } : State).doReset.hidden, step_reset (s := s.withHidden h) hh,
      Hidden.agrees_start (.instr (.init _)) _ _⟩
  · obtain ⟨h', hstep, hag'⟩ := advance_parallel (s := { s with host := .reset n :: rest }) hag hadv
    exact ⟨h', (step_countdown (s := s.withHidden h) hh).trans hstep, hag'⟩
  · obtain ⟨h', hstep, hag'⟩ := advance_parallel hag hadv
    exact ⟨h', (step_noReset (s := s.withHidden h) hn).trans hstep, hag'⟩

theorem stepN_parallel (n : Nat) : ∀ {s : State} {h : Hidden}, s.AgreesWith h → stepN n s = .next t →
    ∃ h', stepN n (s.withHidden h) = .next (t.withHidden h') := by
  induction n with
  | zero =>
    intro s h _ ht
    cases ht
    exact ⟨h, rfl⟩
  | succ n ih =>
    intro s h hag ht
    obtain ⟨u, hu, hrun⟩ := stepN_succ_cases ht
    obtain ⟨h', hstep, hag'⟩ := step_parallel hag hu
    obtain ⟨h'', hrest⟩ := ih hag' hrun
    exact ⟨h'', (stepN_step n hstep).trans hrest⟩
end

/-- Settles O37: from an idle block any two hidden registers agree, and every step keeps the two runs side by side. -/
theorem hiddenRegistersAreNeverObserved : Obligations.HiddenRegistersAreNeverObserved := by
  intro n s t b x j hs ht
  have hag : s.AgreesWith ⟨b, x, j⟩ := by rw [State.AgreesWith, hs]; trivial
  obtain ⟨h', hrun⟩ := stepN_parallel n hag ht
  exact ⟨h'.buf, h'.calT, h'.calI, hrun⟩

end Sys2Proof.Machine
end
